-- ==== Sys2Proof/Word.lean ====
section
/-! DEFINITION. The two word types of SI-CORE (00_scope.md R6, R7): the byte of the wire, of the slave
address and of the function code, and the 16-bit word of locations, register values and the checksum. -/

namespace Sys2Proof

/-- A byte, `0..255`, bit 7 most significant (R7). -/
abbrev Byte := BitVec 8

/-- A 16-bit unsigned value, bit 15 most significant (R7). -/
abbrev Word := BitVec 16

end Sys2Proof
end

