-- ==== Sys2Proof/Syntax.lean ====
section
/-! DEFINITION. The instructions of SI-CORE: one request frame each (30_encoding.md, opening), one
constructor per row of the function-code map (30_encoding.md R79, spec/opcode_table.json). An instruction
keeps every byte of its frame, the received checksum too, since the checksum test is part of its effect. -/

namespace Sys2Proof

/-- A request frame, by its function code. `address` is frame byte 0; `crcLo`, `crcHi` are the last two
bytes of the frame as received. -/
inductive Instr where
  /-- Function code 1, read coils (44_read_functions.md R177). -/
  | rdcoil (address : Byte) (startLocation length : Word) (crcLo crcHi : Byte)
  /-- Function code 2, read discrete inputs (44_read_functions.md R178). -/
  | rddisc (address : Byte) (startLocation length : Word) (crcLo crcHi : Byte)
  /-- Function code 3, read holding registers (44_read_functions.md R179). -/
  | rdhold (address : Byte) (startLocation length : Word) (crcLo crcHi : Byte)
  /-- Function code 4, read input registers (44_read_functions.md R180). -/
  | rdinp (address : Byte) (startLocation length : Word) (crcLo crcHi : Byte)
  /-- Function code 5, write single coil (45_write_single.md R191). -/
  | wrcoil (address : Byte) (location value : Word) (crcLo crcHi : Byte)
  /-- Function code 6, write single register (45_write_single.md R192). -/
  | wrreg (address : Byte) (location value : Word) (crcLo crcHi : Byte)
  /-- Function code 15, write multiple coils (46_unsupported_and_multiwrite.md R203); the byte count is
  the length of `payload`. -/
  | wrmcoil (address : Byte) (startLocation quantity : Word) (payload : List Byte) (crcLo crcHi : Byte)
  /-- Function code 16, write multiple registers (46_unsupported_and_multiwrite.md R204). -/
  | wrmreg (address : Byte) (startLocation quantity : Word) (payload : List Byte) (crcLo crcHi : Byte)
  /-- Any other function code (46_unsupported_and_multiwrite.md R201). -/
  | unsup (address function p0 p1 p2 p3 crcLo crcHi : Byte)
  deriving DecidableEq, Repr

end Sys2Proof
end

