-- ==== Sys2Proof/WellFormed.lean ====
section
/-! DEFINITION. Which terms of `Instr` are frames: the byte count of an extended frame fits its byte
(30_encoding.md R72), and `UNSUP` carries none of the eight function codes that have a row of their own
(30_encoding.md R79, R84). Every other field is as wide as its type. -/

namespace Sys2Proof

/-- The function codes with a row of their own (30_encoding.md R79). -/
def ownFunctionCodes : List Byte := [1#8, 2#8, 3#8, 4#8, 5#8, 6#8, 15#8, 16#8]

/-- The byte count is a byte: `N` in `0..255` (30_encoding.md R72). -/
def payloadFits (payload : List Byte) : Bool := decide (payload.length ≤ 255)

/-- `f` not in {1, 2, 3, 4, 5, 6, 15, 16} (30_encoding.md R84). -/
def isUnsupportedCode (f : Byte) : Bool := !ownFunctionCodes.contains f

/-- The well-formed instructions. -/
def Instr.wellFormed : Instr → Bool
  | .rdcoil _ _ _ _ _ => true
  | .rddisc _ _ _ _ _ => true
  | .rdhold _ _ _ _ _ => true
  | .rdinp _ _ _ _ _ => true
  | .wrcoil _ _ _ _ _ => true
  | .wrreg _ _ _ _ _ => true
  | .wrmcoil _ _ _ payload _ _ => payloadFits payload
  | .wrmreg _ _ _ payload _ _ => payloadFits payload
  | .unsup _ f _ _ _ _ _ _ => isUnsupportedCode f

end Sys2Proof
end

