-- ==== Sys2Proof/Decode.lean ====
section
/-! DEFINITION. The byte order of frames (20_memory.md R53, 00_scope.md R9), the decoder from any bytes to
an instruction and the rest (30_encoding.md R71 to R74, R79), the encoder back, and the opcode table's own
numbering of the base candidate (30_encoding.md R83). -/

namespace Sys2Proof

/-- `be16(hi, lo) = hi * 256 + lo` (00_scope.md R9). -/
def be16 (hi lo : Byte) : Word := BitVec.ofNat 16 (hi.toNat * 256 + lo.toNat)

/-- `hi8(v) = v div 256` (00_scope.md R9). -/
def hi8 (v : Word) : Byte := BitVec.ofNat 8 (v.toNat / 256)

/-- `lo8(v) = v mod 256` (00_scope.md R9). -/
def lo8 (v : Word) : Byte := BitVec.ofNat 8 (v.toNat % 256)

/-- `MAX_FRAME_LEN` (00_scope.md R6). -/
def maxFrameLen : Nat := 264

/-- Function codes 15 and 16 have the extended format (30_encoding.md R73). -/
def isExtendedCode (f : Byte) : Bool := f == 15#8 || f == 16#8

/-- Why bytes are no frame. -/
inductive DecodeError where
  /-- Fewer than the 8 bytes of a base candidate (30_encoding.md R73). -/
  | shortBase
  /-- Function code 15 or 16 with fewer than `byteCount + 1` bytes after the base (30_encoding.md R72). -/
  | shortTail
  deriving DecidableEq, Repr

/-- A frame of format `REQ8` (30_encoding.md R71), by its function code (R79); every code without a row
of its own is `UNSUP` (R80). -/
def decodeBase (a f b2 b3 b4 b5 crcLo crcHi : Byte) : Instr :=
  if f = 1#8 then .rdcoil a (be16 b2 b3) (be16 b4 b5) crcLo crcHi
  else if f = 2#8 then .rddisc a (be16 b2 b3) (be16 b4 b5) crcLo crcHi
  else if f = 3#8 then .rdhold a (be16 b2 b3) (be16 b4 b5) crcLo crcHi
  else if f = 4#8 then .rdinp a (be16 b2 b3) (be16 b4 b5) crcLo crcHi
  else if f = 5#8 then .wrcoil a (be16 b2 b3) (be16 b4 b5) crcLo crcHi
  else if f = 6#8 then .wrreg a (be16 b2 b3) (be16 b4 b5) crcLo crcHi
  else .unsup a f b2 b3 b4 b5 crcLo crcHi

/-- A frame of format `REQX` (30_encoding.md R72), `f` being 15 or 16. -/
def decodeExtended (a f b2 b3 b4 b5 : Byte) (payload : List Byte) (crcLo crcHi : Byte) : Instr :=
  if f = 15#8 then .wrmcoil a (be16 b2 b3) (be16 b4 b5) payload crcLo crcHi
  else .wrmreg a (be16 b2 b3) (be16 b4 b5) payload crcLo crcHi

/-- The instruction at the head of a byte sequence, and the bytes after it. Total: any bytes give an
instruction or a named rejection. -/
def decode : List Byte → Except DecodeError (Instr × List Byte)
  | a :: f :: b2 :: b3 :: b4 :: b5 :: b6 :: b7 :: rest =>
    if isExtendedCode f then
      match (b7 :: rest).drop b6.toNat with
      | crcLo :: crcHi :: rest' =>
        .ok (decodeExtended a f b2 b3 b4 b5 ((b7 :: rest).take b6.toNat) crcLo crcHi, rest')
      | _ => .error .shortTail
    else .ok (decodeBase a f b2 b3 b4 b5 b6 b7, rest)
  | _ => .error .shortBase

/-- The bytes of a `REQ8` frame (30_encoding.md R71). -/
def encodeBase (a f : Byte) (field value : Word) (crcLo crcHi : Byte) : List Byte :=
  [a, f, hi8 field, lo8 field, hi8 value, lo8 value, crcLo, crcHi]

/-- The bytes of a `REQX` frame (30_encoding.md R72). -/
def encodeExtended (a f : Byte) (start quantity : Word) (payload : List Byte) (crcLo crcHi : Byte) :
    List Byte :=
  [a, f, hi8 start, lo8 start, hi8 quantity, lo8 quantity, BitVec.ofNat 8 payload.length] ++
    payload ++ [crcLo, crcHi]

/-- The bytes of an instruction's frame, in the order of the wire (30_encoding.md R71, R72, R84). -/
def encode : Instr → List Byte
  | .rdcoil a s n lo hi => encodeBase a 1#8 s n lo hi
  | .rddisc a s n lo hi => encodeBase a 2#8 s n lo hi
  | .rdhold a s n lo hi => encodeBase a 3#8 s n lo hi
  | .rdinp a s n lo hi => encodeBase a 4#8 s n lo hi
  | .wrcoil a s v lo hi => encodeBase a 5#8 s v lo hi
  | .wrreg a s v lo hi => encodeBase a 6#8 s v lo hi
  | .wrmcoil a s q payload lo hi => encodeExtended a 15#8 s q payload lo hi
  | .wrmreg a s q payload lo hi => encodeExtended a 16#8 s q payload lo hi
  | .unsup a f p0 p1 p2 p3 lo hi => [a, f, p0, p1, p2, p3, lo, hi]

/-- Frame byte 0, the slave address (30_encoding.md R70). -/
def Instr.address : Instr → Byte
  | .rdcoil a _ _ _ _ => a
  | .rddisc a _ _ _ _ => a
  | .rdhold a _ _ _ _ => a
  | .rdinp a _ _ _ _ => a
  | .wrcoil a _ _ _ _ => a
  | .wrreg a _ _ _ _ => a
  | .wrmcoil a _ _ _ _ _ => a
  | .wrmreg a _ _ _ _ _ => a
  | .unsup a _ _ _ _ _ _ _ => a

/-- Frame byte 1, the function code (30_encoding.md R79). -/
def Instr.functionCode : Instr → Byte
  | .rdcoil _ _ _ _ _ => 1#8
  | .rddisc _ _ _ _ _ => 2#8
  | .rdhold _ _ _ _ _ => 3#8
  | .rdinp _ _ _ _ _ => 4#8
  | .wrcoil _ _ _ _ _ => 5#8
  | .wrreg _ _ _ _ _ => 6#8
  | .wrmcoil _ _ _ _ _ _ => 15#8
  | .wrmreg _ _ _ _ _ _ => 16#8
  | .unsup _ f _ _ _ _ _ _ => f

/-- The mnemonic of an instruction's row (30_encoding.md R79, R84). -/
def Instr.mnemonic : Instr → String
  | .rdcoil _ _ _ _ _ => "RDCOIL"
  | .rddisc _ _ _ _ _ => "RDDISC"
  | .rdhold _ _ _ _ _ => "RDHOLD"
  | .rdinp _ _ _ _ _ => "RDINP"
  | .wrcoil _ _ _ _ _ => "WRCOIL"
  | .wrreg _ _ _ _ _ => "WRREG"
  | .wrmcoil _ _ _ _ _ _ => "WRMCOIL"
  | .wrmreg _ _ _ _ _ _ => "WRMREG"
  | .unsup _ _ _ _ _ _ _ _ => "UNSUP"

/-- A row of the opcode table: it matches a base candidate `w` when `w AND mask = match`
(30_encoding.md R83). -/
structure TableRow where
  name    : String
  mask    : Nat
  pattern : Nat
  deriving DecidableEq, Repr

/-- The rows of spec/opcode_table.json, `UNSUP` last: it has the lowest priority (30_encoding.md R83). -/
def tableRows : List TableRow :=
  [⟨"RDCOIL", 0x00FF000000000000, 0x0001000000000000⟩,
   ⟨"RDDISC", 0x00FF000000000000, 0x0002000000000000⟩,
   ⟨"RDHOLD", 0x00FF000000000000, 0x0003000000000000⟩,
   ⟨"RDINP", 0x00FF000000000000, 0x0004000000000000⟩,
   ⟨"WRCOIL", 0x00FF000000000000, 0x0005000000000000⟩,
   ⟨"WRREG", 0x00FF000000000000, 0x0006000000000000⟩,
   ⟨"WRMCOIL", 0x00FF000000000000, 0x000F000000000000⟩,
   ⟨"WRMREG", 0x00FF000000000000, 0x0010000000000000⟩,
   ⟨"UNSUP", 0x0000000000000000, 0x0000000000000000⟩]

/-- The first row that matches a base candidate. -/
def tableRowOf (w : Nat) : Option TableRow := tableRows.find? fun r => (w &&& r.mask) == r.pattern

/-- The bytes of an instruction whose bits are `w` in the table's numbering (30_encoding.md R83): the base
candidate is one 64-bit word with frame byte 0 in bits 63..56; bits from 64 on are the bytes of an extended
frame's tail (DEDUCED, log 3: the table gives the tail no bits, so these are 0 in its rows). Bits at
`nbits` and above are 0. -/
def tableBytes (nbits w : Nat) : List Byte :=
  let v := w % 2 ^ nbits
  (List.range 8).map (fun i => BitVec.ofNat 8 (v / 2 ^ (56 - 8 * i))) ++
    (List.range (maxFrameLen - 8)).map fun i => BitVec.ofNat 8 (v / 2 ^ (64 + 8 * i))

/-- The instruction the decoder reads from an instruction whose bits are `w` as
spec/opcode_table.json numbers them; none where it refuses. -/
def decodeTableWord (nbits w : Nat) : Option Instr :=
  match decode (tableBytes nbits w) with
  | .ok (i, _) => some i
  | .error _ => none

end Sys2Proof
end

