-- ==== Sys2Proof/Config.lean ====
section
/-! DEFINITION. What an implementation of SI-CORE fixes before reset is released (00_scope.md R6,
10_state.md R30 to R33): the device table and the open parameters, with the well-formedness the spec
presupposes (70_reset_and_hazards.md R252); the host operations (00_scope.md R5); and the model's free
values. -/

namespace Sys2Proof

/-- The four kinds of data cell (10_state.md R33). -/
inductive Kind where
  | coil
  | inputDiscrete
  | holding
  | input
  deriving DecidableEq, Repr

/-- The three value modes (10_state.md R33). The reserved code 3 is not constructible, as
93_implementation_defined.md U2 asks. -/
inductive ValueMode where
  | fixed
  | random
  | externalRead
  deriving DecidableEq, Repr

/-- A RegisterDescriptor (10_state.md R31). `length` is the reserved field: no rule reads it. -/
structure Descriptor where
  location  : Word
  length    : Nat
  kind      : Kind
  valueMode : ValueMode
  min       : Word
  max       : Word
  deriving DecidableEq, Repr

/-- A Device (10_state.md R30): one virtual slave. Its `description` is not held (D16). -/
structure Device where
  address   : Byte
  registers : List Descriptor
  deriving DecidableEq, Repr

/-- `BUF_CAP`: `inf`, the source's behaviour, or a number of bytes (00_scope.md R6). -/
inductive Capacity where
  | unbounded
  | bytes (n : Nat)
  deriving DecidableEq, Repr

/-- The device table and the open parameters of 00_scope.md R6. -/
structure Config where
  devices      : List Device
  bufCap       : Capacity
  tSilence     : Nat
  extReadConst : Word
  deriving DecidableEq, Repr

/-- Strictly ascending locations, the precondition of 10_state.md R32. -/
def Device.ascending (d : Device) : Bool :=
  decide (d.registers.Pairwise fun a b => a.location.toNat < b.location.toNat)

/-- A `Random` descriptor has a non-empty range (70_reset_and_hazards.md R252 (3)). -/
def Descriptor.rangeOk (d : Descriptor) : Bool :=
  d.valueMode != .random || decide (d.min.toNat ≤ d.max.toNat)

/-- `BUF_CAP` is `inf` or at least 256 (00_scope.md R6). -/
def Capacity.legal : Capacity → Bool
  | .unbounded => true
  | .bytes n => decide (256 ≤ n)

/-- What the environment must have made sure of before traffic (70_reset_and_hazards.md R252); the
widths of the fields are in their types. A configuration that fails this is refused
(93_implementation_defined.md U1, U2, U4, U5). -/
def Config.wf (c : Config) : Bool :=
  c.devices.all (fun d => d.ascending && d.registers.all Descriptor.rangeOk) &&
    decide (1 ≤ c.tSilence) && c.bufCap.legal

/-- `N_DESC`: the most descriptors any one device holds (00_scope.md R6). -/
def Config.nDesc (c : Config) : Nat :=
  c.devices.foldr (fun d m => max d.registers.length m) 0

/-- The configuration of `State.reset`. DESIGN CHOICE (unsafe, log 4): no devices, and the parameters
that 95_test_vectors.md uses where a vector names none. -/
def Config.initial : Config where
  devices := []
  bufCap := .unbounded
  tSilence := 4
  extReadConst := 0x0102#16

/-- The four atomic operations on SI-CORE (00_scope.md R5, 60_exceptions.md R237). -/
inductive HostOp where
  | reset
  | feed (b : Byte)
  | tick
  | poll
  deriving DecidableEq, Repr

/-- FREE VALUE (safe, log 2): what the environment does in its n-th turn after the operations listed in
State: an operation, or nothing. 00_scope.md R14: any finite or infinite sequence of operations. -/
opaque Config.freeOp : Nat → Option HostOp

/-- FREE VALUE (safe, log 6): what the value source answers to the n-th draw where the environment's
list holds no answer. 43_register_store.md R162: a free value, every call a new draw. -/
opaque Config.freeDraw : Nat → Word

/-- FREE VALUE (safe, log 8): what the checksum engine's register holds after a computation.
93_implementation_defined.md U13: any value, read by no rule. -/
opaque Config.freeCrc : Nat → Word

end Sys2Proof
end

