-- ==== Sys2Proof/Machine/State.lean ====
section
/-! DEFINITION. The state of SI-CORE (10_state.md R20), its reset values (R41), and the ways a
step can stop. Plain data throughout. -/

namespace Sys2Proof.Machine

/-- The persistent states of the assembler FSM (10_state.md R26). -/
inductive Asm where
  | awaitingHeader
  | awaitingExtendedPayload
  deriving DecidableEq, Repr

/-- The result codes of a `Poll` (10_state.md R36). -/
inductive ResultCode where
  | packageOk
  | noFullPackage
  | noSlaveMatch
  | incorrectCrc
  | frameTimeout
  deriving DecidableEq, Repr

/-- The state of SI-CORE. `config` is carried and never changed (10_state.md R42, log 4). The last five
fields are the MODEL's own: the next operations and the count of turns after them (log 2), the value source's
next answers and the count of draws (log 6), and the count of unspecified `crc` values used (log 8). -/
structure State where
  /-- `DEVICES` and the open parameters: configuration (10_state.md R30, 00_scope.md R6). -/
  config  : Config
  /-- The AssemblyBuffer, oldest byte first (R25). -/
  buf     : List Byte
  /-- The assembler's FSM state (R26). -/
  asm     : Asm
  /-- The base candidate of an extended frame whose tail is awaited (R27). -/
  hold    : List Byte
  /-- Bytes still to take from `buf` to finish the extended frame (R27). -/
  need    : Nat
  /-- `Tick` events since the last `Feed`, saturating at `T_SILENCE` (R28). -/
  idle    : Nat
  /-- An extended frame was abandoned on silence and not yet reported (R29). -/
  tmo     : Bool
  /-- A byte was dropped because `buf` was full; sticky (R29). -/
  ovf     : Bool
  /-- Outcome of the most recent `Poll` (R36). -/
  result  : ResultCode
  /-- Reply bytes of the most recent `Poll` (R35). -/
  resp    : List Byte
  /-- The checksum engine's accumulator, live only inside one computation (R34). -/
  crc     : Word
  /-- MODEL's own: the environment's next operations, oldest first. -/
  ops     : List HostOp
  /-- MODEL's own: how many turns the environment has had since `ops` ran out. -/
  turns   : Nat
  /-- MODEL's own: the value source's next answers, oldest first. -/
  answers : List Word
  /-- MODEL's own: how many draws have been made. -/
  drawn   : Nat
  /-- MODEL's own: how many times `crc` was left with an unspecified value. -/
  crcUses : Nat
  deriving DecidableEq, Repr

/-- Why the machine stops with a fault. SI-CORE itself has no fatal failure (60_exceptions.md R220). -/
inductive Fault where
  /-- Raised by `Poll` when `asm`, `hold` and `need` break 10_state.md R27 so that the bytes taken are no
  frame: a state that no run reaches and for which the spec gives no effect. Safe (log 9). -/
  | assemblerInconsistent
  deriving DecidableEq, Repr

/-- Why the model does not go on. -/
inductive Refusal where
  /-- No meaning for this instruction yet. Raised by no arm of `exec`. Safe. -/
  | notModelled (mnemonic : String)
  /-- Raised by every step, and by every instruction's meaning, under a configuration that breaks
  70_reset_and_hazards.md R252: 93_implementation_defined.md U1, U2, U4, U5 say that a model refuses it.
  Safe (log 5). -/
  | illFormedConfiguration
  deriving DecidableEq, Repr

/-- What `crc` holds after reset. DESIGN CHOICE (unsafe, log 8): 10_state.md R41 leaves it unspecified;
this is `CRC_INIT`, where every computation starts. -/
def crcAtReset : Word := 0xFFFF#16

/-- The machine right after `Reset` under a configuration (10_state.md R41), with no operation and no
answer listed. -/
def State.resetWith (c : Config) : State where
  config := c
  buf := []
  asm := .awaitingHeader
  hold := []
  need := 0
  idle := 0
  tmo := false
  ovf := false
  result := .noFullPackage
  resp := []
  crc := crcAtReset
  ops := []
  turns := 0
  answers := []
  drawn := 0
  crcUses := 0

/-- The machine right after reset (10_state.md R41); its configuration is the model's (log 4). -/
def State.reset : State := State.resetWith Config.initial

end Sys2Proof.Machine
end

