-- ==== Sys2Proof/Machine/Flags.lean ====
section
/-! DEFINITION. The Checksum Engine (40_crc_engine.md), the result numbers, the status registers and the
output ports (10_state.md R36 to R40, R43). -/

namespace Sys2Proof.Machine

/-! ## The Checksum Engine -/

/-- `CRC_INIT` (00_scope.md R6); the sub-operation `init` (40_crc_engine.md R106). -/
def crcInit : Word := 0xFFFF#16

/-- `CRC_POLY` (00_scope.md R6). -/
def crcPoly : Word := 0xA001#16

/-- One shift step: bit 0 is tested before the shift, the mask XORed after it (40_crc_engine.md R101,
R102). -/
def crcShift (c : Word) : Word :=
  (c >>> 1) ^^^ (if c.getLsbD 0 then crcPoly else 0x0000#16)

/-- The sub-operation `update(b)`: XOR the byte into the low byte, then eight shift steps
(40_crc_engine.md R101, R106). -/
def crcUpdate (c : Word) (b : Byte) : Word :=
  Nat.repeat crcShift 8 (c ^^^ b.setWidth 16)

/-- `crc16` (40_crc_engine.md R100, R101). -/
def crc16 (bytes : List Byte) : Word := bytes.foldl crcUpdate crcInit

/-- The two checksum bytes of a byte sequence, low byte first (20_memory.md R54). -/
def crcBytes (bytes : List Byte) : List Byte := [lo8 (crc16 bytes), hi8 (crc16 bytes)]

/-- A reply with its checksum (40_crc_engine.md R105). -/
def appendCrc (r : List Byte) : List Byte := r ++ crcBytes r

/-- The checksum test of a request: the last two bytes against the bytes before them
(40_crc_engine.md R104). -/
def checksumValid (f : List Byte) : Bool :=
  decide (f.drop (f.length - 2) = crcBytes (f.take (f.length - 2)))

/-- Whether the Dispatcher appends a checksum to the reply: decided on the request's function code
(42_dispatcher.md R137, 90_conflicts.md C4). -/
def appendsChecksum (functionCode : Byte) : Bool := functionCode != 5#8 && functionCode != 6#8

/-! ## Result numbers, status registers, ports -/

/-- The number of a result code (10_state.md R36). -/
def ResultCode.number : ResultCode → BitVec 3
  | .packageOk => 0#3
  | .noFullPackage => 1#3
  | .noSlaveMatch => 2#3
  | .incorrectCrc => 3#3
  | .frameTimeout => 4#3

/-- Status register 0, `RESULT` (10_state.md R37). -/
def State.resultRegister (s : State) : BitVec 3 := s.result.number

/-- Status register 1, `STATUS`: bit 0 `OVF`, bit 1 `TMO`, bit 2 `ASM`, bit 3 reads 0 (10_state.md R38). -/
def State.statusRegister (s : State) : BitVec 4 :=
  (if s.ovf then 1#4 else 0#4) ||| (if s.tmo then 2#4 else 0#4) |||
    (if s.asm = .awaitingExtendedPayload then 4#4 else 0#4)

/-- Status register 2, `BUF_LEVEL` (10_state.md R37). -/
def State.bufLevel (s : State) : Nat := s.buf.length

/-- Status register 3, `RESP_LEN` (10_state.md R37). -/
def State.respLen (s : State) : Nat := s.resp.length

/-- Status register 4, `IDLE` (10_state.md R37). -/
def State.idleRegister (s : State) : Nat := s.idle

/-- The status port: `status_data` for `status_sel` (10_state.md R37, R40). The spec numbers five
registers; the other three numbers read as absent (DESIGN CHOICE, safe, log 11). -/
def State.statusPort (s : State) (sel : BitVec 3) : Option Nat :=
  match sel.toNat with
  | 0 => some s.resultRegister.toNat
  | 1 => some s.statusRegister.toNat
  | 2 => some s.bufLevel
  | 3 => some s.respLen
  | 4 => some s.idleRegister
  | _ => none

/-- The reply port: `resp_data` for `resp_index` (10_state.md R40); absent past the reply's end (log 11). -/
def State.respPort (s : State) (index : Nat) : Option Byte := s.resp[index]?

/-- What a `Poll` shows its caller: the pair (`result`, `resp`) (00_scope.md R14). -/
def State.observed (s : State) : ResultCode × List Byte := (s.result, s.resp)

/-- The bytes to be transmitted after a `Poll`: `resp` if it ended `PackageOk`, else nothing
(00_scope.md R14, 42_dispatcher.md R141). -/
def State.transmitted (s : State) : List Byte := if s.result = .packageOk then s.resp else []

end Sys2Proof.Machine
end

