-- ==== Sys2Proof/Machine/Operands.lean ====
section
/-! DEFINITION. Operand forms: the codes of the configuration's enumerations (10_state.md R33), the
Register Store's matcher and value resolution (43_register_store.md), and the packing of resolved values
into reply bytes (44_read_functions.md R173 to R176). -/

namespace Sys2Proof

/-! ## Codes and spellings of `kind` and `valueMode` (10_state.md R33) -/

/-- The 2-bit code of a kind. -/
def Kind.code : Kind → BitVec 2
  | .coil => 0#2
  | .inputDiscrete => 1#2
  | .holding => 2#2
  | .input => 3#2

/-- The kind of a 2-bit code; none is spare. -/
def Kind.ofCode (c : BitVec 2) : Kind :=
  if c = 0#2 then .coil else if c = 1#2 then .inputDiscrete else if c = 2#2 then .holding else .input

/-- The configuration's spelling of a kind. -/
def Kind.spelling : Kind → String
  | .coil => "coil"
  | .inputDiscrete => "input_discrete"
  | .holding => "holding"
  | .input => "input"

/-- The function code that reads a kind. -/
def Kind.readCode : Kind → Byte
  | .coil => 1#8
  | .inputDiscrete => 2#8
  | .holding => 3#8
  | .input => 4#8

/-- The 2-bit code of a value mode. -/
def ValueMode.code : ValueMode → BitVec 2
  | .fixed => 0#2
  | .random => 1#2
  | .externalRead => 2#2

/-- The value mode of a 2-bit code; code 3 is reserved and has none. -/
def ValueMode.ofCode (c : BitVec 2) : Option ValueMode :=
  if c = 0#2 then some .fixed else if c = 1#2 then some .random
  else if c = 2#2 then some .externalRead else none

/-- The configuration's spelling of a value mode. -/
def ValueMode.spelling : ValueMode → String
  | .fixed => "fixed"
  | .random => "random_generated"
  | .externalRead => "read"

end Sys2Proof

namespace Sys2Proof.Machine

/-! ## The matcher -/

/-- The Register Store's one failure, a tagged variant (43_register_store.md R150, 60_exceptions.md
R222). -/
inductive StoreFailure where
  | noSuchRegistry
  deriving DecidableEq, Repr

/-- The walk of 43_register_store.md R157: `n` consecutive locations from `loc`, each the next
descriptor's, each of kind `k`. -/
def walkSpan (k : Kind) : Nat → Nat → List Descriptor → Except StoreFailure (List Descriptor)
  | _, 0, _ => .ok []
  | _, _ + 1, [] => .error .noSuchRegistry
  | loc, n + 1, d :: ds =>
    if d.location.toNat = loc ∧ d.kind = k then
      match walkSpan k (loc + 1) n ds with
      | .ok span => .ok (d :: span)
      | .error e => .error e
    else .error .noSuchRegistry

/-- The descriptors a read selects: the four checks in order, then the walk from the first descriptor
whose location is the start (43_register_store.md R152 to R159). Sums are on naturals (R150). -/
def matchSpan (ds : List Descriptor) (k : Kind) (s n : Nat) : Except StoreFailure (List Descriptor) :=
  if s + n ≥ 65535 then .error .noSuchRegistry
  else
    match ds.head?, ds.getLast? with
    | some first, some last =>
      if s + n > last.location.toNat + 1 then .error .noSuchRegistry
      else if s < first.location.toNat then .error .noSuchRegistry
      else if n = 0 then .ok []
      else walkSpan k s n (ds.dropWhile fun d => d.location.toNat != s)
    | _, _ => .error .noSuchRegistry

/-! ## Value resolution -/

/-- A raw answer of the value source brought into `min..max`: itself where it lies there. A raw answer
outside is folded in, so that the source's one law (43_register_store.md R162) always holds (log 6). -/
def foldInto (min max raw : Word) : Word :=
  if min.toNat ≤ raw.toNat ∧ raw.toNat ≤ max.toNat then raw
  else BitVec.ofNat 16 (min.toNat + raw.toNat % (max.toNat - min.toNat + 1))

/-- The value source's raw answer to the next draw: the environment's, or a free value (log 6). -/
def State.rawAnswer (s : State) : Word := s.answers.headD (Config.freeDraw s.drawn)

/-- The state after a draw: the answer is used up and the draw counted. -/
def State.afterDraw (s : State) : State :=
  { s with answers := s.answers.tail, drawn := s.drawn + 1 }

/-- `val(d)` (43_register_store.md R160 to R163). -/
def resolve (d : Descriptor) (s : State) : Word × State :=
  match d.valueMode with
  | .fixed => (d.max, s)
  | .random => (foldInto d.min d.max s.rawAnswer, s.afterDraw)
  | .externalRead => (s.config.extReadConst, s)

/-- `val` of each descriptor in ascending location, each draw fresh (43_register_store.md R158, R164). -/
def resolveAll : List Descriptor → State → List Word × State
  | [], s => ([], s)
  | d :: ds, s =>
    let r := resolve d s
    let rest := resolveAll ds r.2
    (r.1 :: rest.1, rest.2)

/-- `readValues` (43_register_store.md R150, R159). A failing read makes no draw, which R164 allows
(DESIGN CHOICE, log 7). -/
def readValues (ds : List Descriptor) (k : Kind) (start n : Nat) (s : State) :
    Except StoreFailure (List Word) × State :=
  match matchSpan ds k start n with
  | .ok span => (.ok (resolveAll span s).1, (resolveAll span s).2)
  | .error e => (.error e, s)

/-! ## Packing -/

/-- `bit(v)`: 0 if `v = 0`, else 1 (44_read_functions.md R173). -/
def coilBit (v : Word) : Bool := v != 0#16

/-- One reply byte of up to eight coil values, the first in bit 7 (44_read_functions.md R174). -/
def packByte (bits : List Bool) : Byte :=
  (List.range 8).foldl (fun acc i => if bits.getD i false then acc ||| (0x80#8 >>> i) else acc) 0#8

/-- `PackBits` (44_read_functions.md R174): `ceil(n / 8)` bytes, eight values a byte. -/
def packBits (values : List Word) (n : Nat) : List Byte :=
  (List.range ((n + 7) / 8)).map fun g => packByte (((values.take n).map coilBit).drop (8 * g))

/-- `PackRegs` (44_read_functions.md R176): high byte first, in ascending location. -/
def packRegs (values : List Word) : List Byte := values.flatMap fun v => [hi8 v, lo8 v]

end Sys2Proof.Machine
end

