-- ==== Sys2Proof/Machine/Ops.lean ====
section
/-! DEFINITION. The named operations on the state: the FIFO and the Frame Assembler
(41_frame_assembler.md), `Reset` (70_reset_and_hazards.md R250), the exception reply (30_encoding.md R77),
and the Dispatcher's part after extraction (42_dispatcher.md R130), shared by every instruction. -/

namespace Sys2Proof.Machine

/-! ## Small updates -/

/-- Every `Poll` first empties the reply (10_state.md R35). -/
def State.clearResp (s : State) : State := { s with resp := [] }

/-- A `Poll`'s outcome: its result code and its reply bytes (10_state.md R35, R36). -/
def State.conclude (s : State) (r : ResultCode) (reply : List Byte) : State :=
  { s with result := r, resp := reply }

/-- The checksum engine was used: its register is left with an unspecified value (10_state.md R34,
93_implementation_defined.md U13, log 8). -/
def State.leaveCrc (s : State) : State :=
  { s with crc := Config.freeCrc s.crcUses, crcUses := s.crcUses + 1 }

/-! ## Reset, Feed, Tick -/

/-- `Reset` (10_state.md R41, 70_reset_and_hazards.md R250, R251): the configuration, the operations to
come and the value source are not the block's to reset. -/
def State.doReset (s : State) : State :=
  { s with
    buf := [], asm := .awaitingHeader, hold := [], need := 0, idle := 0, tmo := false, ovf := false,
    result := .noFullPackage, resp := [], crc := crcAtReset }

/-- There is room in `buf` for one more byte (41_frame_assembler.md R110). -/
def State.hasRoom (s : State) : Bool :=
  match s.config.bufCap with
  | .unbounded => true
  | .bytes n => decide (s.buf.length < n)

/-- `Feed(b)` (41_frame_assembler.md R110). -/
def State.feed (b : Byte) (s : State) : State :=
  if s.hasRoom then { s with idle := 0, buf := s.buf ++ [b] }
  else { s with idle := 0, ovf := true }

/-- The increment of the silence counter (41_frame_assembler.md R120). -/
def State.countTick (s : State) : State := { s with idle := min (s.idle + 1) s.config.tSilence }

/-- The abandonment of an extended frame (41_frame_assembler.md R121). -/
def State.abandon (s : State) : State :=
  { s with hold := [], need := 0, buf := [], asm := .awaitingHeader, tmo := true }

/-- The abandonment test, made after the increment (41_frame_assembler.md R121). -/
def State.silent (s : State) : Bool :=
  decide (s.asm = .awaitingExtendedPayload ∧ s.idle = s.config.tSilence ∧ s.buf.length < s.need)

/-- `Tick` (41_frame_assembler.md R120, R121). -/
def State.tick (s : State) : State :=
  if s.countTick.silent then s.countTick.abandon else s.countTick

/-! ## Frame extraction -/

/-- Leading zero discard: while at least 8 bytes are queued and the head is 0, drop the head
(41_frame_assembler.md R112). -/
def discardZeros : List Byte → List Byte
  | [] => []
  | b :: rest => if 8 ≤ rest.length + 1 ∧ b = 0#8 then discardZeros rest else b :: rest

/-- Bytes that follow a base candidate of function code 15 or 16: `base[6] + 1`
(41_frame_assembler.md R116). -/
def declaredTail (base : List Byte) : Nat := (base.getD 6 0#8).toNat + 1

/-- Remove the 8 bytes of a base candidate that is the whole frame (41_frame_assembler.md R115). -/
def State.takeBase (s : State) : State := { s with buf := s.buf.drop 8, hold := [] }

/-- Move the base candidate of an extended frame to `hold` (41_frame_assembler.md R116). -/
def State.beginExtended (s : State) : State :=
  { s with
    buf := s.buf.drop 8, hold := s.buf.take 8, need := declaredTail (s.buf.take 8),
    asm := .awaitingExtendedPayload }

/-- Remove the tail of a completed extended frame (41_frame_assembler.md R117). -/
def State.endExtended (s : State) : State :=
  { s with buf := s.buf.drop s.need, hold := [], need := 0, asm := .awaitingHeader }

/-- The part of `Extract` in state AwaitingExtendedPayload (41_frame_assembler.md R117, R118). -/
def State.extractTail (s : State) : Option (List Byte) × State :=
  if s.buf.length < s.need then (none, s)
  else (some (s.hold ++ s.buf.take s.need), s.endExtended)

/-- The part of `Extract` in state AwaitingHeader after the zero discard (41_frame_assembler.md R114 to
R116). -/
def State.extractBase (s : State) : Option (List Byte) × State :=
  if s.buf.length < 8 then (none, s)
  else if isExtendedCode (s.buf.getD 1 0#8) then s.beginExtended.extractTail
  else (some (s.buf.take 8), s.takeBase)

/-- `Extract` (41_frame_assembler.md R123): a complete frame, or none (`NoFull`). -/
def State.extract (s : State) : Option (List Byte) × State :=
  match s.asm with
  | .awaitingHeader => State.extractBase { s with buf := discardZeros s.buf }
  | .awaitingExtendedPayload => s.extractTail

/-! ## The Dispatcher after extraction -/

/-- The first device in table order with this address (42_dispatcher.md R134). -/
def findDevice (devices : List Device) (address : Byte) : Option Device :=
  devices.find? fun d => d.address == address

/-- Taking an exception: the reply `[address, function OR 0x80, code]` before its checksum
(30_encoding.md R77). Nothing is saved and control goes nowhere (60_exceptions.md R227). -/
def exceptionReply (address functionCode code : Byte) : List Byte :=
  [address, functionCode ||| 0x80#8, code]

/-- Exception code 1, illegal function (60_exceptions.md R223). -/
def illegalFunction : Byte := 0x01#8

/-- Exception code 2, Illegal Data Address (60_exceptions.md R222). -/
def illegalDataAddress : Byte := 0x02#8

/-- The reply's final bytes: the checksum is appended unless the request's function code is 5 or 6
(42_dispatcher.md R137). -/
def finishReply (functionCode : Byte) (r : List Byte) : List Byte :=
  if appendsChecksum functionCode then appendCrc r else r

/-- The Dispatcher's steps on an extracted frame `f` (42_dispatcher.md R130): address match, checksum
test, `Respond`, checksum of the reply. `respond` is the Device's part of the instruction. An ill-formed
configuration is refused (log 5). -/
def dispatch (f : List Byte) (respond : Device → State → List Byte × State) (s : State) :
    Host.Outcome State Fault Refusal :=
  if s.config.wf then
    match findDevice s.config.devices (f.getD 0 0#8) with
    | none => .next (s.conclude .noSlaveMatch [])
    | some d =>
      if checksumValid f then
        let r := respond d s.leaveCrc
        .next (r.2.conclude .packageOk (finishReply (f.getD 1 0#8) r.1))
      else .next (s.leaveCrc.conclude .incorrectCrc [])
  else .refused .illFormedConfiguration

end Sys2Proof.Machine
end

