-- ==== Sys2Proof/Machine/Reads.lean ====
section
/-! DEFINITION. Function codes 1 to 4 (44_read_functions.md). -/

namespace Sys2Proof.Machine

/-- `ReadBits` (44_read_functions.md R172): coils and discrete inputs. -/
def readBits (address functionCode : Byte) (k : Kind) (startLocation length : Word)
    (d : Device) (s : State) : List Byte × State :=
  match readValues d.registers k startLocation.toNat length.toNat s with
  | (.error .noSuchRegistry, s') => (exceptionReply address functionCode illegalDataAddress, s')
  | (.ok v, s') =>
    ([address, functionCode, BitVec.ofNat 8 ((length.toNat + 7) / 8)] ++ packBits v length.toNat, s')

/-- `ReadRegs` (44_read_functions.md R172): holding and input registers. -/
def readRegs (address functionCode : Byte) (k : Kind) (startLocation length : Word)
    (d : Device) (s : State) : List Byte × State :=
  match readValues d.registers k startLocation.toNat length.toNat s with
  | (.error .noSuchRegistry, s') => (exceptionReply address functionCode illegalDataAddress, s')
  | (.ok v, s') =>
    ([address, functionCode, BitVec.ofNat 8 (2 * length.toNat)] ++ packRegs v, s')

/-- `RDCOIL` (44_read_functions.md R177). -/
def execRdcoil (address : Byte) (startLocation length : Word) (crcLo crcHi : Byte) (s : State) :
    Host.Outcome State Fault Refusal :=
  dispatch (encode (.rdcoil address startLocation length crcLo crcHi))
    (readBits address 0x01#8 .coil startLocation length) s

/-- `RDDISC` (44_read_functions.md R178). -/
def execRddisc (address : Byte) (startLocation length : Word) (crcLo crcHi : Byte) (s : State) :
    Host.Outcome State Fault Refusal :=
  dispatch (encode (.rddisc address startLocation length crcLo crcHi))
    (readBits address 0x02#8 .inputDiscrete startLocation length) s

/-- `RDHOLD` (44_read_functions.md R179). -/
def execRdhold (address : Byte) (startLocation length : Word) (crcLo crcHi : Byte) (s : State) :
    Host.Outcome State Fault Refusal :=
  dispatch (encode (.rdhold address startLocation length crcLo crcHi))
    (readRegs address 0x03#8 .holding startLocation length) s

/-- `RDINP` (44_read_functions.md R180). -/
def execRdinp (address : Byte) (startLocation length : Word) (crcLo crcHi : Byte) (s : State) :
    Host.Outcome State Fault Refusal :=
  dispatch (encode (.rdinp address startLocation length crcLo crcHi))
    (readRegs address 0x04#8 .input startLocation length) s

end Sys2Proof.Machine
end

