-- ==== Sys2Proof/Machine/Unsupported.lean ====
section
/-! DEFINITION. Function codes 15 and 16 and every code without a row of its own
(46_unsupported_and_multiwrite.md): the exception reply with code 1. -/

namespace Sys2Proof.Machine

/-- The unsupported-function reply (46_unsupported_and_multiwrite.md R201, R202). -/
def unsupportedReply (address functionCode : Byte) (_ : Device) (s : State) : List Byte × State :=
  (exceptionReply address functionCode illegalFunction, s)

/-- `WRMCOIL` (46_unsupported_and_multiwrite.md R203). -/
def execWrmcoil (address : Byte) (startLocation quantity : Word) (payload : List Byte)
    (crcLo crcHi : Byte) (s : State) : Host.Outcome State Fault Refusal :=
  dispatch (encode (.wrmcoil address startLocation quantity payload crcLo crcHi))
    (unsupportedReply address 0x0F#8) s

/-- `WRMREG` (46_unsupported_and_multiwrite.md R204). -/
def execWrmreg (address : Byte) (startLocation quantity : Word) (payload : List Byte)
    (crcLo crcHi : Byte) (s : State) : Host.Outcome State Fault Refusal :=
  dispatch (encode (.wrmreg address startLocation quantity payload crcLo crcHi))
    (unsupportedReply address 0x10#8) s

/-- `UNSUP` (46_unsupported_and_multiwrite.md R201). -/
def execUnsup (address function p0 p1 p2 p3 crcLo crcHi : Byte) (s : State) :
    Host.Outcome State Fault Refusal :=
  dispatch (encode (.unsup address function p0 p1 p2 p3 crcLo crcHi))
    (unsupportedReply address function) s

end Sys2Proof.Machine
end

