-- ==== Sys2Proof/Machine/Writes.lean ====
section
/-! DEFINITION. Function codes 5 and 6 (45_write_single.md): the request is echoed and nothing changes. -/

namespace Sys2Proof.Machine

/-- The echo of 45_write_single.md R190: the whole request, its checksum bytes included. -/
def echo (f : List Byte) (_ : Device) (s : State) : List Byte × State := (f, s)

/-- `WRCOIL` (45_write_single.md R191). -/
def execWrcoil (address : Byte) (location value : Word) (crcLo crcHi : Byte) (s : State) :
    Host.Outcome State Fault Refusal :=
  dispatch (encode (.wrcoil address location value crcLo crcHi))
    (echo (encode (.wrcoil address location value crcLo crcHi))) s

/-- `WRREG` (45_write_single.md R192). -/
def execWrreg (address : Byte) (location value : Word) (crcLo crcHi : Byte) (s : State) :
    Host.Outcome State Fault Refusal :=
  dispatch (encode (.wrreg address location value crcLo crcHi))
    (echo (encode (.wrreg address location value crcLo crcHi))) s

end Sys2Proof.Machine
end

