-- ==== Sys2Proof/Machine/Dispatch.lean ====
section
/-! DEFINITION. The meaning of every instruction, one arm per constructor. -/

namespace Sys2Proof.Machine

def exec (i : Instr) (s : State) : Host.Outcome State Fault Refusal :=
  match i with
  | .rdcoil address startLocation length crcLo crcHi => Sys2Proof.Machine.execRdcoil address startLocation length crcLo crcHi s
  | .rddisc address startLocation length crcLo crcHi => Sys2Proof.Machine.execRddisc address startLocation length crcLo crcHi s
  | .rdhold address startLocation length crcLo crcHi => Sys2Proof.Machine.execRdhold address startLocation length crcLo crcHi s
  | .rdinp address startLocation length crcLo crcHi => Sys2Proof.Machine.execRdinp address startLocation length crcLo crcHi s
  | .wrcoil address location value crcLo crcHi => Sys2Proof.Machine.execWrcoil address location value crcLo crcHi s
  | .wrreg address location value crcLo crcHi => Sys2Proof.Machine.execWrreg address location value crcLo crcHi s
  | .wrmcoil address startLocation quantity payload crcLo crcHi => Sys2Proof.Machine.execWrmcoil address startLocation quantity payload crcLo crcHi s
  | .wrmreg address startLocation quantity payload crcLo crcHi => Sys2Proof.Machine.execWrmreg address startLocation quantity payload crcLo crcHi s
  | .unsup address function p0 p1 p2 p3 crcLo crcHi => Sys2Proof.Machine.execUnsup address function p0 p1 p2 p3 crcLo crcHi s

end Sys2Proof.Machine
end

