-- ==== Sys2Proof/Machine/Poll.lean ====
section
/-! DEFINITION. `Poll` (42_dispatcher.md R130), which extracts one frame and runs it, the four host
operations, and how the next one is taken from the environment; and where a frame is put so that the next
step runs it. -/

namespace Sys2Proof.Machine

/-- Run an extracted frame: decode it and give it its meaning. Bytes that are no frame come only from a
state that breaks 10_state.md R27 (log 9). -/
def runFrame (f : List Byte) (s : State) : Host.Outcome State Fault Refusal :=
  match decode f with
  | .ok (i, []) => exec i s
  | _ => .fault .assemblerInconsistent

/-- `Poll` (42_dispatcher.md R130 to R133, R138). -/
def poll (s : State) : Host.Outcome State Fault Refusal :=
  if s.tmo then .next ({ s with tmo := false }.conclude .frameTimeout [])
  else
    match s.clearResp.extract with
    | (none, s') => .next (s'.conclude .noFullPackage [])
    | (some f, s') => runFrame f s'

/-- One host operation (00_scope.md R5). -/
def performOp (op : HostOp) (s : State) : Host.Outcome State Fault Refusal :=
  match op with
  | .reset => .next s.doReset
  | .feed b => .next (s.feed b)
  | .tick => .next s.tick
  | .poll => poll s

/-- The environment's next operation: the first of its list, or, past the list, what it freely does in this
turn, which may be nothing (00_scope.md R14, log 2). -/
def State.nextOp (s : State) : Option HostOp :=
  match s.ops with
  | [] => Config.freeOp s.turns
  | op :: _ => some op

/-- The state once the environment has had its turn: the operation is taken off the list, or, past the list,
the turn is counted. No state of SI-CORE's own changes (log 2). -/
def State.takeTurn (s : State) : State :=
  match s.ops with
  | [] => { s with turns := s.turns + 1 }
  | _ :: rest => { s with ops := rest }

/-- The environment's next operation, performed; where it issues none, no state of SI-CORE changes
(60_exceptions.md R236). An ill-formed configuration is refused (log 5). -/
def performNext (s : State) : Host.Outcome State Fault Refusal :=
  if s.config.wf then
    match s.nextOp with
    | none => .next s.takeTurn
    | some op => performOp op s.takeTurn
  else .refused .illFormedConfiguration

/-- The state in which the very next step is a `Poll` that extracts exactly the frame at the head of
`bytes` (log 3). A `REQ8` frame goes to the head of `buf`, over the bytes that stood there. An extended
frame is put as one whose base is already in `hold`. A `REQ8` frame whose address byte is 0 could not pass
the zero discard (41_frame_assembler.md R113), so it is put in `hold` as a base with no byte awaited. A
frame of address 0, of either format, makes a state no run reaches. -/
def State.placeFrame (s : State) (bytes : List Byte) : State :=
  if isExtendedCode (bytes.getD 1 0#8) then
    { s with
      buf := (bytes.drop 8).take (declaredTail bytes) ++ s.buf.drop (declaredTail bytes),
      hold := bytes.take 8, need := declaredTail bytes, asm := .awaitingExtendedPayload,
      tmo := false, ops := .poll :: s.ops }
  else if bytes.getD 0 0#8 = 0#8 then
    { s with
      hold := bytes.take 8, need := 0, asm := .awaitingExtendedPayload,
      tmo := false, ops := .poll :: s.ops }
  else
    { s with
      buf := bytes.take 8 ++ s.buf.drop 8, hold := [], need := 0, asm := .awaitingHeader,
      tmo := false, ops := .poll :: s.ops }

end Sys2Proof.Machine
end

