-- ==== Sys2Proof/Machine/Step.lean ====
section
/-! DEFINITION. The step: one host operation (00_scope.md R5). -/

namespace Sys2Proof.Machine

/-- One step of SI-CORE. -/
def step (s : State) : Host.Outcome State Fault Refusal := performNext s

/-- `s` with the instruction whose bits are `w` (numbered as spec/opcode_table.json numbers them) placed so
that the very next step runs it (log 3). -/
def State.withFetchWord (s : State) (nbits w : Nat) : State := s.placeFrame (tableBytes nbits w)

end Sys2Proof.Machine
end

