-- ==== Sys2Proof/Safety.lean ====
section
/-! DEFINITION. What holds of every state a run reaches (the invariants the spec states), and the terms
claims are written in: which cell stands where, and which value a cell may resolve to. -/

namespace Sys2Proof.Machine

/-! ## The invariant between operations -/

/-- `asm`, `hold` and `need` agree (10_state.md R27), and a base that waits in `hold` does not begin with 0
(41_frame_assembler.md R113). -/
abbrev State.AssemblerConsistent (s : State) : Prop :=
  (s.asm = .awaitingHeader → s.hold = [] ∧ s.need = 0) ∧
  (s.asm = .awaitingExtendedPayload →
    s.hold.length = 8 ∧ s.hold.getD 0 0#8 ≠ 0#8 ∧
      (s.hold.getD 1 0#8 = 15#8 ∨ s.hold.getD 1 0#8 = 16#8) ∧ s.need = (s.hold.getD 6 0#8).toNat + 1)

/-- The silence counter is at most `T_SILENCE` (10_state.md R28). -/
abbrev State.IdleBounded (s : State) : Prop := s.idle ≤ s.config.tSilence

/-- `buf` holds at most `BUF_CAP` bytes (10_state.md R20, R25). -/
def Capacity.admits : Capacity → Nat → Bool
  | .unbounded, _ => true
  | .bytes n, len => decide (len ≤ n)

/-- `buf` is within its capacity, and with `BUF_CAP = inf` no byte was ever dropped (10_state.md R29). -/
abbrev State.BufferBounded (s : State) : Prop :=
  Capacity.admits s.config.bufCap s.buf.length = true ∧ (s.config.bufCap = .unbounded → s.ovf = false)

/-- A pending `FrameTimeout` implies AwaitingHeader (41_frame_assembler.md R124). -/
abbrev State.TimeoutConsistent (s : State) : Prop := s.tmo = true → s.asm = .awaitingHeader

/-- `resp` is empty unless the last `Poll` ended `PackageOk`; then it is a reply of 5 to
`max(8, 5 + 2 * N_DESC)` bytes whose checksum is right (10_state.md R35, 40_crc_engine.md R105, R107). -/
abbrev State.ReplyConsistent (s : State) : Prop :=
  (s.result ≠ .packageOk → s.resp = []) ∧
  (s.result = .packageOk →
    5 ≤ s.resp.length ∧ s.resp.length ≤ max 8 (5 + 2 * s.config.nDesc) ∧ checksumValid s.resp = true)

/-- The invariant of SI-CORE: what the spec says holds between any two operations. -/
abbrev State.Inv (s : State) : Prop :=
  s.config.wf = true ∧ s.AssemblerConsistent ∧ s.IdleBounded ∧ s.BufferBounded ∧
    s.TimeoutConsistent ∧ s.ReplyConsistent

/-! ## Cells and values -/

/-- The device has a cell of kind `k` at location `loc` (10_state.md R21). -/
abbrev Device.HasCell (d : Device) (k : Kind) (loc : Nat) : Prop :=
  ∃ c ∈ d.registers, c.location.toNat = loc ∧ c.kind = k

/-- `v` is a value that descriptor `c` may resolve to (43_register_store.md R161 to R163). -/
def MayResolve (ext : Word) (c : Descriptor) (v : Word) : Prop :=
  match c.valueMode with
  | .fixed => v = c.max
  | .random => c.min.toNat ≤ v.toNat ∧ v.toNat ≤ c.max.toNat
  | .externalRead => v = ext

/-- The descriptors a read of `n` cells from `start` resolves: one for each location, of a cell of that
kind there, in ascending location (43_register_store.md R157, R158). -/
def SpanCells (d : Device) (k : Kind) (start n : Nat) (cells : List Descriptor) : Prop :=
  cells.length = n ∧
    ∀ i c, cells[i]? = some c → c ∈ d.registers ∧ c.location.toNat = start + i ∧ c.kind = k

/-- How many of these descriptors take a draw: the `Random` ones (43_register_store.md R161 to R163). -/
def drawsAmong (cells : List Descriptor) : Nat := cells.countP fun c => c.valueMode == .random

/-- The value source's raw answer to the draw after `j` more: the environment's, or, past the end of its
list, a free value of its own (log 6). -/
def State.answerAt (s : State) (j : Nat) : Word := s.answers.getD j (Config.freeDraw (s.drawn + j))

/-- The values of a list of descriptors resolved once each, in order, from state `s`: each a value its
descriptor may resolve to, and each `Random` one the answer to a draw of its own, the next in turn
(43_register_store.md R162, R164). -/
def ResolvesInOrder (s : State) (cells : List Descriptor) (values : List Word) : Prop :=
  values.length = cells.length ∧
    ∀ i c v, cells[i]? = some c → values[i]? = some v →
      MayResolve s.config.extReadConst c v ∧
        (c.valueMode = .random →
          let answer := s.answerAt (drawsAmong (cells.take i))
          c.min.toNat ≤ answer.toNat → answer.toNat ≤ c.max.toNat → v = answer)

/-- Between `s` and `t` the value source was asked once for each `Random` descriptor of `cells`
(43_register_store.md R164). -/
def DrawsOnceEach (cells : List Descriptor) (s t : State) : Prop :=
  t.answers = s.answers.drop (drawsAmong cells) ∧ t.drawn = s.drawn + drawsAmong cells

/-- When a read of `n` cells of kind `k` from `s` succeeds (43_register_store.md R165). -/
def Readable (d : Device) (k : Kind) (s n : Nat) : Prop :=
  s + n < 65535 ∧
    if n = 0 then
      ∃ first last, d.registers.head? = some first ∧ d.registers.getLast? = some last ∧
        first.location.toNat ≤ s ∧ s ≤ last.location.toNat + 1
    else ∀ i, i < n → ∃ c ∈ d.registers, c.location.toNat = s + i ∧ c.kind = k

/-- `d` is the first device in table order with address `a` (42_dispatcher.md R134). -/
def Selected (c : Config) (a : Byte) (d : Device) : Prop :=
  ∃ before after, c.devices = before ++ d :: after ∧ (∀ e ∈ before, e.address ≠ a) ∧ d.address = a

/-- The frame of `i` carries the checksum of the bytes before it, low byte first
(40_crc_engine.md R104). -/
def Intact (i : Instr) : Prop :=
  ∃ body, encode i = body ++ [lo8 (crc16 body), hi8 (crc16 body)]

/-- A reply's bytes followed by their checksum, low byte first (40_crc_engine.md R105). -/
def withChecksum (r : List Byte) : List Byte := r ++ [lo8 (crc16 r), hi8 (crc16 r)]

/-- The data bytes of a reply to function codes 1 and 2: value `8 * g + j` in bit `7 - j` of byte `g`, the
positions past the last value 0 (20_memory.md R55). -/
def PacksBits (values : List Word) (data : List Byte) : Prop :=
  data.length = (values.length + 7) / 8 ∧
    ∀ g j, g < data.length → j < 8 →
      (data.getD g 0#8).getLsbD (7 - j) =
        decide (8 * g + j < values.length ∧ values.getD (8 * g + j) 0#16 ≠ 0#16)

/-- The data bytes of a reply to function codes 3 and 4: value `i` in bytes `2 * i` (high) and
`2 * i + 1` (low) (44_read_functions.md R176). -/
def PacksRegs (values : List Word) (data : List Byte) : Prop :=
  data.length = 2 * values.length ∧
    ∀ i v, values[i]? = some v → data[2 * i]? = some (hi8 v) ∧ data[2 * i + 1]? = some (lo8 v)

/-- `t` is `s` but for the reply and the checksum engine's register: what an instruction that reads no
cell may change. -/
def OnlyReplyChanged (s t : State) : Prop :=
  t = { s with result := t.result, resp := t.resp, crc := t.crc, crcUses := t.crcUses }

/-- `t` is `s` but for the reply, the checksum engine's register and the value source's own fields: what
a read may change. -/
def OnlyReplyAndDrawsChanged (s t : State) : Prop :=
  t = { s with
    result := t.result, resp := t.resp, crc := t.crc, crcUses := t.crcUses,
    answers := t.answers, drawn := t.drawn }

/-! ## Outcomes -/

/-- The configuration is refused: by the step and by every instruction's meaning
(93_implementation_defined.md U1, U2, U4, U5). -/
def State.RefusesConfiguration (s : State) : Prop :=
  step s = .refused .illFormedConfiguration ∧ ∀ i : Instr, exec i s = .refused .illFormedConfiguration

/-- The next state of an outcome, where there is one. -/
def nextState? : Host.Outcome State Fault Refusal → Option State
  | .next s => some s
  | .fault _ => none
  | .refused _ => none

/-- `k` steps, stopping at the first fault or refusal: `Host.Core.run` of this machine, over its own
types. -/
def runSteps : Nat → State → Host.Outcome State Fault Refusal
  | 0, s => .next s
  | k + 1, s =>
    match step s with
    | .next t => runSteps k t
    | .fault r => .fault r
    | .refused r => .refused r

/-- `s` with these operations waiting, oldest first. -/
def State.withOps (s : State) (ops : List HostOp) : State := { s with ops := ops }

end Sys2Proof.Machine
end

