-- ==== Sys2Proof/Certificates/Slice0/Obligations.lean ====
section
/-! DEFINITION. The statements for the provers. Each docstring says which sentence of the spec it
formalises; where a clause rests on a decision the spec marks as its own, or on a choice of this model, the
docstring says so. -/

open Sys2Proof Sys2Proof.Machine

/-! ## Encoding -/

/-- Decoding an encoded well-formed instruction gives it back, whatever follows it (30_encoding.md
sections 1, 2, 4). -/
def Obligations.DecodeOfEncodeIsTheInstruction : Prop :=
  ∀ (i : Instr) (rest : List Byte), i.wellFormed = true → decode (encode i ++ rest) = .ok (i, rest)

/-- Each byte sequence has one reading: what the decoder reads is well formed and encodes to the bytes it
was read from, none dropped (30_encoding.md sections 1, 2, 4). -/
def Obligations.EncodeOfDecodeIsTheBytes : Prop :=
  ∀ (bs rest : List Byte) (i : Instr), decode bs = .ok (i, rest) →
    i.wellFormed = true ∧ encode i ++ rest = bs

/-- The decoder accepts exactly the sequences that hold a whole frame: 8 bytes, or `9 + N` for function
codes 15 and 16. The layout of the extended frame is the spec's decision D8. -/
def Obligations.DecodeAcceptsExactlyWholeFrames : Prop :=
  ∀ bs : List Byte, (∃ r, decode bs = .ok r) ↔
    8 ≤ bs.length ∧
      ((bs.getD 1 0#8 = 15#8 ∨ bs.getD 1 0#8 = 16#8) → 9 + (bs.getD 6 0#8).toNat ≤ bs.length)

/-- Frames written out in the spec's worked examples decode to the lines they stand for
(95_test_vectors.md sections 2.5 to 2.7). -/
def Obligations.SpecFramesDecode : Prop :=
  decode [0x01, 0x01, 0x00, 0x64, 0x00, 0x0A, 0xFD, 0xD2] = .ok (.rdcoil 1 100 10 0xFD 0xD2, []) ∧
  decode [0x07, 0x02, 0x00, 0x00, 0x00, 0x03, 0x38, 0x6D] = .ok (.rddisc 7 0 3 0x38 0x6D, []) ∧
  decode [0x01, 0x03, 0x00, 0x0A, 0x00, 0x01, 0xA4, 0x08] = .ok (.rdhold 1 10 1 0xA4 0x08, []) ∧
  decode [0x07, 0x04, 0x00, 0x03, 0x00, 0x02, 0x81, 0xAD] = .ok (.rdinp 7 3 2 0x81 0xAD, []) ∧
  decode [0x01, 0x05, 0x00, 0x64, 0xFF, 0x00, 0xCD, 0xE5] =
    .ok (.wrcoil 1 100 0xFF00 0xCD 0xE5, []) ∧
  decode [0x01, 0x06, 0x00, 0x0A, 0x12, 0x34, 0xA4, 0xBF] =
    .ok (.wrreg 1 10 0x1234 0xA4 0xBF, []) ∧
  decode [0x01, 0x0F, 0x00, 0x13, 0x00, 0x0A, 0x02, 0xCD, 0x01, 0x72, 0xCB] =
    .ok (.wrmcoil 1 19 10 [0xCD, 0x01] 0x72 0xCB, []) ∧
  decode [0x01, 0x10, 0x00, 0x0A, 0x00, 0x01, 0x02, 0x12, 0x34, 0xAB, 0x8D] =
    .ok (.wrmreg 1 10 1 [0x12, 0x34] 0xAB 0x8D, []) ∧
  decode [0x01, 0x2B, 0x0E, 0x01, 0x00, 0x00, 0x76, 0xE4] =
    .ok (.unsup 1 0x2B 0x0E 0x01 0 0 0x76 0xE4, [])

/-- The table's numbering of the base candidate and its rows' priority (30_encoding.md section 4, the spec's
decision D23): for every 64-bit word the decoder reads the instruction of the first row that matches, and the
first eight bytes of its frame are the word's, byte 0 in bits 63..56. That a word of function code 15 or 16
is a whole frame rests on this model's reading that the tail has zero bytes where the table gives it no bits
(log 3). -/
def Obligations.TableWordSelectsItsRow : Prop :=
  ∀ w : Nat, w < 2 ^ 64 → ∃ i, decodeTableWord 64 w = some i ∧
    (tableRowOf w).map TableRow.name = some i.mnemonic ∧
    (encode i).take 8 = (List.range 8).map fun j => BitVec.ofNat 8 (w / 2 ^ (56 - 8 * j))

/-- A word placed for fetching is run by the very next step, as that instruction, with the operations that
were waiting still waiting. How a frame is placed is this model's choice (log 3). -/
def Obligations.PlacedWordIsRunByTheNextStep : Prop :=
  ∀ (s : State) (w : Nat), s.config.wf = true → w < 2 ^ 64 → ∃ i s',
    decodeTableWord 64 w = some i ∧ step (s.withFetchWord 64 w) = exec i s' ∧
    s'.config = s.config ∧ s'.ops = s.ops ∧ s'.turns = s.turns ∧ s'.asm = .awaitingHeader ∧ s'.hold = [] ∧
    s'.need = 0 ∧ s'.idle = s.idle ∧ s'.ovf = s.ovf ∧ s'.tmo = false ∧ s'.answers = s.answers ∧ s'.drawn = s.drawn

/-! ## The Checksum Engine -/

/-- The algorithm of 40_crc_engine.md R101, byte by byte. -/
def Obligations.CrcFollowsTheAlgorithm : Prop :=
  crc16 [] = 0xFFFF#16 ∧
  ∀ (bs : List Byte) (b : Byte),
    let shift := fun c : Word => (c >>> 1) ^^^ (if c &&& 1#16 = 1#16 then 0xA001#16 else 0x0000#16)
    crc16 (bs ++ [b]) =
      shift (shift (shift (shift (shift (shift (shift (shift (crc16 bs ^^^ b.setWidth 16))))))))

/-- The residue law (40_crc_engine.md, a derived property): a frame passes the checksum test exactly when
the checksum of the whole frame is 0. -/
def Obligations.ChecksumTestIsZeroResidue : Prop :=
  ∀ f : List Byte, 2 ≤ f.length → (checksumValid f = true ↔ crc16 f = 0#16)

/-- `update` is a bijection of the register for each byte, so two sequences that differ in one byte have
different checksums (40_crc_engine.md, a derived property). -/
def Obligations.CrcSeesEveryOneByteChange : Prop :=
  (∀ b : Byte, Function.Bijective fun c : Word => crcUpdate c b) ∧
  ∀ (front back : List Byte) (a b : Byte), a ≠ b →
    crc16 (front ++ a :: back) ≠ crc16 (front ++ b :: back)

/-- The worked example of 40_crc_engine.md R108, with the register after each byte. -/
def Obligations.CrcWorkedExample : Prop :=
  crc16 [0x01] = 0x807E#16 ∧ crc16 [0x01, 0x03] = 0x2140#16 ∧
  crc16 [0x01, 0x03, 0x00] = 0xF020#16 ∧ crc16 [0x01, 0x03, 0x00, 0x00] = 0xD8F1#16 ∧
  crc16 [0x01, 0x03, 0x00, 0x00, 0x00] = 0x8419#16 ∧
  crc16 [0x01, 0x03, 0x00, 0x00, 0x00, 0x0A] = 0xCDC5#16 ∧
  checksumValid [0x01, 0x03, 0x00, 0x00, 0x00, 0x0A, 0xC5, 0xCD] = true

/-! ## Host operations: Reset, Feed, Tick -/

/-- `Reset` (10_state.md section 10, the spec's decision D20): every piece of SI-CORE's state at its reset
value; the configuration, the operations to come and the value source untouched. The value of `crc` is this
model's choice (log 8). -/
def Obligations.ResetGivesTheResetState : Prop :=
  ∀ (s : State) (rest : List HostOp), s.config.wf = true → s.ops = .reset :: rest →
    step s = .next
      { config := s.config, buf := [], asm := .awaitingHeader, hold := [], need := 0, idle := 0,
        tmo := false, ovf := false, result := .noFullPackage, resp := [], crc := crcAtReset,
        ops := rest, turns := s.turns, answers := s.answers, drawn := s.drawn, crcUses := s.crcUses }

/-- `Feed(b)` (41_frame_assembler.md section 1; the capacity and the silence counter are the spec's
decisions D5 and D10): the byte joins the tail and the counter is cleared; on a full buffer the byte is
dropped and `ovf` set, the counter cleared all the same. Nothing else changes. -/
def Obligations.FeedAppendsOrDrops : Prop :=
  ∀ (s : State) (b : Byte) (rest : List HostOp), s.config.wf = true → s.ops = .feed b :: rest →
    (s.config.bufCap = .unbounded →
      step s = .next { s with ops := rest, idle := 0, buf := s.buf ++ [b] }) ∧
    (∀ n, s.config.bufCap = .bytes n → s.buf.length < n →
      step s = .next { s with ops := rest, idle := 0, buf := s.buf ++ [b] }) ∧
    (∀ n, s.config.bufCap = .bytes n → n ≤ s.buf.length →
      step s = .next { s with ops := rest, idle := 0, ovf := true })

/-- `Tick` (41_frame_assembler.md section 3, the spec's decision D10): the counter goes up to its limit;
an extended frame still short of bytes when the counter stands at the limit is abandoned, with all of
`buf`; otherwise nothing else changes. -/
def Obligations.TickCountsAndAbandons : Prop :=
  ∀ (s : State) (rest : List HostOp), s.config.wf = true → s.ops = .tick :: rest →
    (s.asm = .awaitingExtendedPayload → s.config.tSilence ≤ s.idle + 1 → s.buf.length < s.need →
      step s = .next
        { s with
          ops := rest, idle := s.config.tSilence, hold := [], need := 0, buf := [],
          asm := .awaitingHeader, tmo := true }) ∧
    (s.asm = .awaitingHeader ∨ s.idle + 1 < s.config.tSilence ∨ s.need ≤ s.buf.length →
      step s = .next { s with ops := rest, idle := min (s.idle + 1) s.config.tSilence })

/-! ## Frame extraction -/

/-- Leading zero discard (41_frame_assembler.md section 2, with the spec's decision D6): exactly the
longest run of discards is made in which every discarded byte is 0 and is the head of at least 8 queued
bytes. -/
def Obligations.ZeroDiscardIsExact : Prop :=
  ∀ bs : List Byte, ∃ k, discardZeros bs = bs.drop k ∧
    (∀ j, j < k → bs[j]? = some 0#8 ∧ 8 ≤ bs.length - j) ∧
    (bs.length - k < 8 ∨ bs.getD k 0#8 ≠ 0#8)

/-- 41_frame_assembler.md section 2: a buffer shorter than 8 bytes gives `NoFullPackage` and stays as it is;
a buffer that the zero discard leaves shorter than 8 bytes loses those zeros, for good (the spec's decision
D6), and nothing more; and no `Tick` ever removes a byte in AwaitingHeader, it counts silence only (the
spec's decision D10). -/
def Obligations.ShortBufferIsLeftAlone : Prop :=
  ∀ (s : State) (rest : List HostOp), s.config.wf = true → s.asm = .awaitingHeader →
    (s.ops = .poll :: rest → s.tmo = false → s.buf.length < 8 →
      step s = .next { s with ops := rest, result := .noFullPackage, resp := [] }) ∧
    (s.ops = .poll :: rest → s.tmo = false → (discardZeros s.buf).length < 8 →
      step s = .next
        { s with ops := rest, buf := discardZeros s.buf, result := .noFullPackage, resp := [] }) ∧
    (s.ops = .tick :: rest →
      step s = .next { s with ops := rest, idle := min (s.idle + 1) s.config.tSilence })

/-- No frame begins with 0, however it is completed, so slave address 0 is never served
(41_frame_assembler.md section 2, 30_encoding.md section 5, derived there from the zero discard): neither a
frame taken in AwaitingHeader nor an extended one completed later, from the base that waits in `hold`. A
reply never comes from address 0, and a device of address 0 is never matched. -/
def Obligations.NoExtractedFrameBeginsWithZero : Prop :=
  (∀ (s s' : State) (f : List Byte), s.asm = .awaitingHeader ∨ s.AssemblerConsistent →
    s.extract = (some f, s') → 8 ≤ f.length ∧ f.getD 0 0#8 ≠ 0#8) ∧
  ∀ (s t : State) (rest : List HostOp), s.AssemblerConsistent → s.ops = .poll :: rest →
    step s = .next t →
    (t.result = .packageOk → t.resp.getD 0 0#8 ≠ 0#8) ∧
    (t.result = .packageOk ∨ t.result = .incorrectCrc → ∃ d ∈ s.config.devices, d.address ≠ 0#8)

/-- A `Poll` that finds a whole frame at the head of the buffer, after any leading zeros, runs that
instruction on the state with the frame's bytes removed (41_frame_assembler.md section 2,
42_dispatcher.md `Poll`). -/
def Obligations.StepRunsTheFrameAtTheHead : Prop :=
  ∀ (s : State) (i : Instr) (zeros : Nat) (tail : List Byte) (rest : List HostOp),
    s.config.wf = true → s.ops = .poll :: rest → s.tmo = false → s.asm = .awaitingHeader →
    s.hold = [] → s.need = 0 → i.wellFormed = true → i.address ≠ 0#8 →
    s.buf = List.replicate zeros 0#8 ++ encode i ++ tail →
    step s = exec i { s with ops := rest, resp := [], buf := tail }

/-- A `Poll` that finds the awaited tail in the buffer runs the completed extended instruction, its zero
bytes included (41_frame_assembler.md section 2, the spec's decision D7). -/
def Obligations.StepRunsTheCompletedExtendedFrame : Prop :=
  ∀ (s : State) (i : Instr) (part tail : List Byte) (rest : List HostOp),
    s.config.wf = true → s.ops = .poll :: rest → s.tmo = false →
    s.asm = .awaitingExtendedPayload → i.wellFormed = true → encode i = s.hold ++ part →
    s.need = part.length → s.buf = part ++ tail →
    step s = exec i
      { s with ops := rest, resp := [], buf := tail, hold := [], need := 0, asm := .awaitingHeader }

/-- An extended frame whose tail is not all there: the first `Poll` moves the base to `hold` and waits, and
later ones leave everything (41_frame_assembler.md section 2, the spec's decisions D7 and D8). -/
def Obligations.ExtendedFrameWaitsForItsTail : Prop :=
  ∀ (s : State) (rest : List HostOp), s.config.wf = true → s.ops = .poll :: rest → s.tmo = false →
    (∀ (zeros : Nat) (base tail : List Byte), s.asm = .awaitingHeader →
      s.buf = List.replicate zeros 0#8 ++ base ++ tail → base.length = 8 → base.getD 0 0#8 ≠ 0#8 →
      (base.getD 1 0#8 = 15#8 ∨ base.getD 1 0#8 = 16#8) →
      tail.length < (base.getD 6 0#8).toNat + 1 →
      step s = .next
        { s with
          ops := rest, buf := tail, hold := base, need := (base.getD 6 0#8).toNat + 1,
          asm := .awaitingExtendedPayload, result := .noFullPackage, resp := [] }) ∧
    (s.asm = .awaitingExtendedPayload → s.buf.length < s.need →
      step s = .next { s with ops := rest, result := .noFullPackage, resp := [] })

/-- An abandoned frame is reported by the next `Poll`, which does nothing else (42_dispatcher.md, the
spec's decisions D4 and D10). -/
def Obligations.AbandonedFrameIsReportedOnce : Prop :=
  ∀ (s : State) (rest : List HostOp), s.config.wf = true → s.ops = .poll :: rest → s.tmo = true →
    step s = .next { s with ops := rest, tmo := false, result := .frameTimeout, resp := [] }

/-- However an extended frame is cut in two, with a `Poll` between the parts, it is answered as one frame:
the run ends as that instruction on the state with nothing buffered (41_frame_assembler.md section 2, the
spec's decision D7). The buffer must hold what waits in it at once: the first part, or, where that is shorter
than a base and so stays in the buffer, the whole frame. -/
def Obligations.SplitExtendedFrameIsAnsweredWhole : Prop :=
  ∀ (s : State) (i : Instr) (m : Nat), s.config.wf = true → i.wellFormed = true →
    isExtendedCode i.functionCode = true → i.address ≠ 0#8 → m < (encode i).length →
    Capacity.admits s.config.bufCap (if m < 8 then (encode i).length else m) = true →
    s.buf = [] → s.asm = .awaitingHeader → s.hold = [] → s.need = 0 → s.tmo = false →
    s.ops = ((encode i).take m).map HostOp.feed ++ [.poll] ++
      ((encode i).drop m).map HostOp.feed ++ [.poll] →
    runSteps s.ops.length s =
      exec i { s with ops := [], idle := 0, result := .noFullPackage, resp := [] }

/-- `T_SILENCE` ticks with no byte between them end the wait for an extended frame's tail, whatever the
counter stood at, and the next `Poll` reports it (41_frame_assembler.md section 3, the spec's decision
D10). -/
def Obligations.SilenceEndsTheWait : Prop :=
  ∀ s : State, s.Inv → s.asm = .awaitingExtendedPayload → s.buf.length < s.need →
    s.ops = List.replicate s.config.tSilence .tick ++ [.poll] →
    runSteps s.ops.length s = .next
      { s with
        ops := [], idle := s.config.tSilence, hold := [], need := 0, buf := [],
        asm := .awaitingHeader, result := .frameTimeout, resp := [] }

/-- One frame per `Poll`, and no byte lost: what a `Poll` finds in `hold` and `buf` is some leading zeros,
then the frame it ran (or none, and what it still keeps), then what is left (42_dispatcher.md R138,
10_state.md R25). -/
def Obligations.PollConsumesOneFrameOrNone : Prop :=
  ∀ (s t : State) (rest : List HostOp), s.AssemblerConsistent → s.ops = .poll :: rest →
    step s = .next t →
    ∃ zeros, (s.hold ≠ [] → zeros = 0) ∧
      ((t.result = .frameTimeout ∧ t.hold = s.hold ∧ t.buf = s.buf) ∨
       (t.result = .noFullPackage ∧
          s.hold ++ s.buf = List.replicate zeros 0#8 ++ t.hold ++ t.buf) ∨
       ∃ i, i.wellFormed = true ∧ s.hold ++ s.buf = List.replicate zeros 0#8 ++ encode i ++ t.buf ∧
          exec i
            { s with
              ops := rest, resp := [], buf := t.buf, hold := [], need := 0, asm := .awaitingHeader } =
            .next t)

/-! ## The Dispatcher -/

/-- 42_dispatcher.md R135: a frame for an address that no device has gets no reply, whatever its
checksum. -/
def Obligations.UnknownAddressIsIgnored : Prop :=
  ∀ (i : Instr) (s : State), s.config.wf = true → (∀ d ∈ s.config.devices, d.address ≠ i.address) →
    exec i s = .next { s with result := .noSlaveMatch, resp := [] }

/-- A frame for a configured address whose last two bytes are not the checksum of the bytes before them gets
no reply (42_dispatcher.md, 40_crc_engine.md). That an extended frame's checksum covers all its bytes but the
last two is the spec's decision D9. -/
def Obligations.CorruptedFrameIsIgnored : Prop :=
  ∀ (i : Instr) (s : State), s.config.wf = true → (∃ d ∈ s.config.devices, d.address = i.address) →
    (let f := encode i
     let c := crc16 (f.take (f.length - 2))
     ¬ (f.getD (f.length - 2) 0#8 = lo8 c ∧ f.getD (f.length - 1) 0#8 = hi8 c)) →
    ∃ t, exec i s = .next t ∧ OnlyReplyChanged s t ∧ t.result = .incorrectCrc ∧ t.resp = []

/-- 42_dispatcher.md R134: the first device of the table with the frame's address answers, exactly as if
it were alone; devices of another address before it and all devices after it play no part. -/
def Obligations.FirstDeviceWithTheAddressAnswers : Prop :=
  ∀ (i : Instr) (s t : State) (d : Device), Selected s.config i.address d → exec i s = .next t →
    exec i { s with config := { s.config with devices := [d] } } =
      .next { t with config := { s.config with devices := [d] } }

/-- Every reply is from the address asked and for the function asked: its first byte is the request's
address, its second the function code, with the high bit set in an exception reply (30_encoding.md
section 3). -/
def Obligations.ReplyNamesAddressAndFunction : Prop :=
  ∀ (i : Instr) (s t : State), exec i s = .next t → t.result = .packageOk →
    t.resp.getD 0 0#8 = i.address ∧
      (t.resp.getD 1 0#8 = i.functionCode ∨ t.resp.getD 1 0#8 = i.functionCode ||| 0x80#8)

/-! ## Reads -/

/-- The matcher succeeds exactly on the spans that 43_register_store.md characterises, for a device whose
descriptors ascend; reads of length 0 and of a device without descriptors are the spec's decisions D12 and
D13. -/
def Obligations.MatcherSucceedsExactlyOnReadableSpans : Prop :=
  ∀ (d : Device) (k : Kind) (s n : Nat), d.ascending = true →
    ((∃ span, matchSpan d.registers k s n = .ok span) ↔ Readable d k s n)

/-- `RDCOIL` and `RDDISC` on readable cells (44_read_functions.md): each cell of the span is resolved once,
in ascending location, each `Random` one with a draw of its own; the reply is address, function, byte count,
the values packed most significant bit first, and the checksum. The value source is the spec's decision D18,
that its answers stand in a list this model's choice (log 6). The truncated byte count and the
conversion of a value to a bit are the spec's decisions D14 and D15. Nothing but the reply, the checksum
engine and the value source changes. -/
def Obligations.BitReadsAnswerTheirCells : Prop :=
  ∀ (s : State) (a : Byte) (start n : Word) (lo hi : Byte) (d : Device), s.config.wf = true →
    Selected s.config a d →
    (Intact (.rdcoil a start n lo hi) → Readable d .coil start.toNat n.toNat →
      ∃ t cells values data, exec (.rdcoil a start n lo hi) s = .next t ∧ OnlyReplyAndDrawsChanged s t ∧
        t.result = .packageOk ∧ SpanCells d .coil start.toNat n.toNat cells ∧
        ResolvesInOrder s cells values ∧ DrawsOnceEach cells s t ∧ PacksBits values data ∧
        t.resp = withChecksum ([a, 1#8, BitVec.ofNat 8 ((n.toNat + 7) / 8)] ++ data)) ∧
    (Intact (.rddisc a start n lo hi) → Readable d .inputDiscrete start.toNat n.toNat →
      ∃ t cells values data, exec (.rddisc a start n lo hi) s = .next t ∧ OnlyReplyAndDrawsChanged s t ∧
        t.result = .packageOk ∧ SpanCells d .inputDiscrete start.toNat n.toNat cells ∧
        ResolvesInOrder s cells values ∧ DrawsOnceEach cells s t ∧ PacksBits values data ∧
        t.resp = withChecksum ([a, 2#8, BitVec.ofNat 8 ((n.toNat + 7) / 8)] ++ data))

/-- `RDHOLD` and `RDINP` on readable cells (44_read_functions.md): each cell of the span is resolved once, in
ascending location, each `Random` one with a draw of its own; the reply is address, function, byte count, each
value high byte first, and the checksum. The value source is the spec's decision D18, that its answers stand
in a list this model's choice (log 6). The truncated byte count is the spec's decision D14. -/
def Obligations.RegisterReadsAnswerTheirCells : Prop :=
  ∀ (s : State) (a : Byte) (start n : Word) (lo hi : Byte) (d : Device), s.config.wf = true →
    Selected s.config a d →
    (Intact (.rdhold a start n lo hi) → Readable d .holding start.toNat n.toNat →
      ∃ t cells values data, exec (.rdhold a start n lo hi) s = .next t ∧ OnlyReplyAndDrawsChanged s t ∧
        t.result = .packageOk ∧ SpanCells d .holding start.toNat n.toNat cells ∧
        ResolvesInOrder s cells values ∧ DrawsOnceEach cells s t ∧ PacksRegs values data ∧
        t.resp = withChecksum ([a, 3#8, BitVec.ofNat 8 (2 * n.toNat)] ++ data)) ∧
    (Intact (.rdinp a start n lo hi) → Readable d .input start.toNat n.toNat →
      ∃ t cells values data, exec (.rdinp a start n lo hi) s = .next t ∧ OnlyReplyAndDrawsChanged s t ∧
        t.result = .packageOk ∧ SpanCells d .input start.toNat n.toNat cells ∧
        ResolvesInOrder s cells values ∧ DrawsOnceEach cells s t ∧ PacksRegs values data ∧
        t.resp = withChecksum ([a, 4#8, BitVec.ofNat 8 (2 * n.toNat)] ++ data))

/-- A read that is not readable, in any location of its span, gets the exception reply with code 2, all of
it and no data (44_read_functions.md, 60_exceptions.md); reads of length 0 and of a device without
descriptors are the spec's decisions D12 and D13. -/
def Obligations.UnreadableSpansAnswerExceptionTwo : Prop :=
  ∀ (s : State) (a : Byte) (start n : Word) (lo hi : Byte) (d : Device), s.config.wf = true →
    Selected s.config a d →
    (Intact (.rdcoil a start n lo hi) → ¬ Readable d .coil start.toNat n.toNat →
      ∃ t, exec (.rdcoil a start n lo hi) s = .next t ∧ OnlyReplyAndDrawsChanged s t ∧
        t.result = .packageOk ∧ t.resp = withChecksum [a, 0x81#8, 0x02#8]) ∧
    (Intact (.rddisc a start n lo hi) → ¬ Readable d .inputDiscrete start.toNat n.toNat →
      ∃ t, exec (.rddisc a start n lo hi) s = .next t ∧ OnlyReplyAndDrawsChanged s t ∧
        t.result = .packageOk ∧ t.resp = withChecksum [a, 0x82#8, 0x02#8]) ∧
    (Intact (.rdhold a start n lo hi) → ¬ Readable d .holding start.toNat n.toNat →
      ∃ t, exec (.rdhold a start n lo hi) s = .next t ∧ OnlyReplyAndDrawsChanged s t ∧
        t.result = .packageOk ∧ t.resp = withChecksum [a, 0x83#8, 0x02#8]) ∧
    (Intact (.rdinp a start n lo hi) → ¬ Readable d .input start.toNat n.toNat →
      ∃ t, exec (.rdinp a start n lo hi) s = .next t ∧ OnlyReplyAndDrawsChanged s t ∧
        t.result = .packageOk ∧ t.resp = withChecksum [a, 0x84#8, 0x02#8])

/-- 43_register_store.md R152: a span whose start and length sum to 65535 or more is not readable,
whatever is configured there; the greatest location that can be read is 65533, and where a descriptor of a
device stands there it is read, whatever other descriptors the device has. -/
def Obligations.AddressSpaceEndIsUnreadable : Prop :=
  (∀ (ds : List Descriptor) (k : Kind) (s n : Nat), 65535 ≤ s + n →
    matchSpan ds k s n = .error .noSuchRegistry) ∧
  (∀ (ds : List Descriptor) (k : Kind) (s n : Nat), 0 < n → 65533 < s →
    matchSpan ds k s n = .error .noSuchRegistry) ∧
  ∀ (d : Device) (c : Descriptor), d.ascending = true → c ∈ d.registers → c.location = 65533#16 →
    matchSpan d.registers c.kind 65533 1 = .ok [c]

/-- 43_register_store.md R161: a `Fixed` descriptor resolves to `max`; `min` is ignored, and no draw is
made. -/
def Obligations.FixedResolvesToMax : Prop :=
  ∀ (d : Descriptor) (s : State), d.valueMode = .fixed → resolve d s = (d.max, s)

/-- The value source (43_register_store.md section 2, the spec's decisions D18 and D19): a `Random` descriptor
takes a new answer at every resolution, inside its range, and an answer of the environment that obeys the
range as it stands; an `ExternalRead` descriptor gives the parameter; and a list of descriptors is resolved
once each, in order, so that no two of them share an answer, with nothing but the value source's fields
changed. That the environment's answers stand in a list is this model's choice (log 6). -/
def Obligations.RandomDrawsAFreshAnswer : Prop :=
  (∀ (d : Descriptor) (s : State), d.rangeOk = true →
    (d.valueMode = .random →
      d.min.toNat ≤ (resolve d s).1.toNat ∧ (resolve d s).1.toNat ≤ d.max.toNat ∧
      (resolve d s).2 = { s with answers := s.answers.tail, drawn := s.drawn + 1 } ∧
      ∀ v rest, s.answers = v :: rest → d.min.toNat ≤ v.toNat → v.toNat ≤ d.max.toNat →
        (resolve d s).1 = v) ∧
    (d.valueMode = .externalRead → resolve d s = (s.config.extReadConst, s))) ∧
  ∀ (cells : List Descriptor) (s : State), (∀ c ∈ cells, c.rangeOk = true) →
    ResolvesInOrder s cells (resolveAll cells s).1 ∧
    DrawsOnceEach cells s (resolveAll cells s).2 ∧
    (resolveAll cells s).2 =
      { s with answers := (resolveAll cells s).2.answers, drawn := (resolveAll cells s).2.drawn }

/-- Where the addressed device has no `Random` descriptor, what an instruction answers depends on the
configuration alone: no earlier read, write or value of any other state changes it (44_read_functions.md
section 3, 45_write_single.md). -/
def Obligations.ReplyDependsOnConfigurationAlone : Prop :=
  ∀ (i : Instr) (s s' t t' : State), s.config = s'.config →
    (∀ d ∈ s.config.devices, d.address = i.address → ∀ c ∈ d.registers, c.valueMode ≠ .random) →
    exec i s = .next t → exec i s' = .next t' → t.observed = t'.observed

/-- The reserved field `length` of a descriptor has no effect (93_implementation_defined.md U3): whatever
the descriptors' lengths become, every instruction answers the same. -/
def Obligations.DescriptorLengthHasNoEffect : Prop :=
  ∀ (i : Instr) (s t : State) (f : Descriptor → Nat), exec i s = .next t →
    let c := { s.config with
      devices := s.config.devices.map fun d =>
        { d with registers := d.registers.map fun r => { r with length := f r } } }
    exec i { s with config := c } = .next { t with config := c }

/-! ## Writes and unsupported functions -/

/-- 45_write_single.md R190: a write to a configured address with the right checksum is echoed byte for
byte, whatever location and value it names, and changes nothing. -/
def Obligations.SingleWritesAreEchoed : Prop :=
  ∀ (s : State) (a : Byte) (location value : Word) (lo hi : Byte) (d : Device), s.config.wf = true →
    Selected s.config a d →
    (Intact (.wrcoil a location value lo hi) →
      ∃ t, exec (.wrcoil a location value lo hi) s = .next t ∧ OnlyReplyChanged s t ∧
        t.result = .packageOk ∧
        t.resp = [a, 5#8, hi8 location, lo8 location, hi8 value, lo8 value, lo, hi]) ∧
    (Intact (.wrreg a location value lo hi) →
      ∃ t, exec (.wrreg a location value lo hi) s = .next t ∧ OnlyReplyChanged s t ∧
        t.result = .packageOk ∧
        t.resp = [a, 6#8, hi8 location, lo8 location, hi8 value, lo8 value, lo, hi])

/-- Multi-writes and every other function code are answered with exception code 1 and change nothing
(46_unsupported_and_multiwrite.md, the spec's decisions D7 and D11). -/
def Obligations.UnsupportedFunctionsAnswerExceptionOne : Prop :=
  ∀ (s : State) (a : Byte) (d : Device), s.config.wf = true → Selected s.config a d →
    (∀ (start quantity : Word) (payload : List Byte) (lo hi : Byte),
      Intact (.wrmcoil a start quantity payload lo hi) →
      ∃ t, exec (.wrmcoil a start quantity payload lo hi) s = .next t ∧ OnlyReplyChanged s t ∧
        t.result = .packageOk ∧ t.resp = withChecksum [a, 0x8F#8, 0x01#8]) ∧
    (∀ (start quantity : Word) (payload : List Byte) (lo hi : Byte),
      Intact (.wrmreg a start quantity payload lo hi) →
      ∃ t, exec (.wrmreg a start quantity payload lo hi) s = .next t ∧ OnlyReplyChanged s t ∧
        t.result = .packageOk ∧ t.resp = withChecksum [a, 0x90#8, 0x01#8]) ∧
    (∀ f p0 p1 p2 p3 lo hi : Byte, (Instr.unsup a f p0 p1 p2 p3 lo hi).wellFormed = true →
      Intact (.unsup a f p0 p1 p2 p3 lo hi) →
      ∃ t, exec (.unsup a f p0 p1 p2 p3 lo hi) s = .next t ∧ OnlyReplyChanged s t ∧
        t.result = .packageOk ∧ t.resp = withChecksum [a, f ||| 0x80#8, 0x01#8])

/-! ## Frames and whole-machine rules -/

/-- No instruction changes anything but the reply, the checksum engine and the value source; only reads
touch the value source (44_read_functions.md, 45_write_single.md, 46_unsupported_and_multiwrite.md: flags
written, none). -/
def Obligations.InstructionsChangeOnlyTheReply : Prop :=
  ∀ (i : Instr) (s t : State), exec i s = .next t →
    OnlyReplyAndDrawsChanged s t ∧
    (i.functionCode ∉ [1#8, 2#8, 3#8, 4#8] → OnlyReplyChanged s t)

/-- The configuration never changes, and each step uses up one listed operation of the environment, if there
is one (10_state.md section 1, 70_reset_and_hazards.md section 1). -/
def Obligations.StepsKeepTheConfiguration : Prop :=
  ∀ s t : State, step s = .next t → t.config = s.config ∧ t.ops = s.ops.tail

/-- Past its list the environment stays free: in each turn it issues some operation, which is performed as if
it were listed, or none, and then nothing of SI-CORE changes (00_scope.md section 3, 60_exceptions.md
section 7). What it does in a turn is a free value of this model (log 2): the statement holds whatever it
is. -/
def Obligations.EnvironmentStaysFreePastItsList : Prop :=
  ∀ s : State, s.config.wf = true → s.ops = [] →
    step s =
      match Config.freeOp s.turns with
      | none => .next { s with turns := s.turns + 1 }
      | some op => step { s with ops := [op], turns := s.turns + 1 }

/-- A run never ends of itself: from every state with the invariant, every infinite sequence of operations
has its infinite run, each state of which has the invariant (00_scope.md section 3). -/
def Obligations.EverySequenceOfOperationsHasItsRun : Prop :=
  ∀ (ops : Nat → HostOp) (s : State), s.Inv → ∃ run : Nat → State, run 0 = s ∧
    ∀ n, (run n).Inv ∧ step ((run n).withOps [ops n]) = .next (run (n + 1))

/-- Bytes enter the buffer only at its tail, by `Feed`, and leave it only from its head (10_state.md
section 4). -/
def Obligations.BytesLeaveInFifoOrder : Prop :=
  ∀ s t : State, step s = .next t →
    (∃ k, t.buf = s.buf.drop k) ∨
    (∃ b, s.nextOp = some (.feed b) ∧ t.buf = s.buf ++ [b])

/-- Who sets and clears the two flags (10_state.md section 4; the flags are the spec's decisions D5 and
D10): `ovf` is set only by a `Feed` on a full buffer and cleared only by `Reset`; `tmo` is set only by a
`Tick` on a waiting extended frame and cleared only by `Reset` or the `Poll` that reports it. -/
def Obligations.FlagsChangeOnlyAsStated : Prop :=
  ∀ s t : State, step s = .next t →
    (t.ovf = true → s.ovf = false →
      (∃ b, s.nextOp = some (.feed b)) ∧ ∃ n, s.config.bufCap = .bytes n ∧ n ≤ s.buf.length) ∧
    (t.ovf = false → s.ovf = true → s.nextOp = some .reset) ∧
    (t.tmo = true → s.tmo = false → s.nextOp = some .tick ∧ s.asm = .awaitingExtendedPayload) ∧
    (t.tmo = false → s.tmo = true →
      s.nextOp = some .reset ∨ (s.nextOp = some .poll ∧ t.result = .frameTimeout))

/-- Which outcome a `Poll` reports, in the order of 60_exceptions.md section 3: a pending timeout first,
then too few bytes, then the address, then the checksum, then the answer. -/
def Obligations.PollReportsInOrderOfPriority : Prop :=
  ∀ (s t : State) (rest : List HostOp), s.ops = .poll :: rest → step s = .next t →
    (t.result = .frameTimeout ↔ s.tmo = true) ∧
    (t.result = .noFullPackage ↔
      s.tmo = false ∧ ∃ s', State.extract { s with ops := rest, resp := [] } = (none, s')) ∧
    (∀ f s', s.tmo = false → State.extract { s with ops := rest, resp := [] } = (some f, s') →
      (t.result = .noSlaveMatch ↔ ∀ d ∈ s.config.devices, d.address ≠ f.getD 0 0#8) ∧
      (t.result = .incorrectCrc ↔
        (∃ d ∈ s.config.devices, d.address = f.getD 0 0#8) ∧ checksumValid f = false) ∧
      (t.result = .packageOk ↔
        (∃ d ∈ s.config.devices, d.address = f.getD 0 0#8) ∧ checksumValid f = true))

/-- The status registers (10_state.md section 8, the spec's decision D3), by number, and what is
transmitted. -/
def Obligations.StatusRegistersShowTheState : Prop :=
  ∀ s : State,
    s.statusPort 0#3 = some (match s.result with
      | .packageOk => 0 | .noFullPackage => 1 | .noSlaveMatch => 2 | .incorrectCrc => 3
      | .frameTimeout => 4) ∧
    s.statusRegister.getLsbD 0 = s.ovf ∧ s.statusRegister.getLsbD 1 = s.tmo ∧
    s.statusRegister.getLsbD 2 = decide (s.asm = .awaitingExtendedPayload) ∧
    s.statusRegister.getLsbD 3 = false ∧
    s.statusPort 1#3 = some s.statusRegister.toNat ∧ s.statusPort 2#3 = some s.buf.length ∧
    s.statusPort 3#3 = some s.resp.length ∧ s.statusPort 4#3 = some s.idle ∧
    (s.Inv → s.transmitted = s.resp)

/-- The codes of kinds and value modes (10_state.md section 5, the spec's decision D17): each code gives its
name back, code 3 of the value modes is reserved, and a kind's code is the function code that reads it,
less one. -/
def Obligations.EnumerationCodesAreOneToOne : Prop :=
  (∀ k : Kind, Kind.ofCode k.code = k ∧ k.code.toNat + 1 = k.readCode.toNat) ∧
  (∀ c : BitVec 2, (Kind.ofCode c).code = c) ∧
  (∀ m : ValueMode, ValueMode.ofCode m.code = some m) ∧ ValueMode.ofCode 3#2 = none

/-- A configuration that breaks a precondition is refused by every step and by every instruction
(70_reset_and_hazards.md section 2, 00_scope.md section 4, 93_implementation_defined.md U1, U4, U5): two
descriptors of a device whose locations do not strictly ascend, a `Random` descriptor with an empty range, no
silence timeout, a finite capacity below 256. A configuration that breaks none of the four is well formed,
and every instruction runs under it. -/
def Obligations.IllFormedConfigurationIsRefused : Prop :=
  ∀ s : State,
    (s.config.wf = false → s.RefusesConfiguration) ∧
    (∀ d ∈ s.config.devices, ∀ (i j : Nat) (a b : Descriptor), i < j → d.registers[i]? = some a →
      d.registers[j]? = some b → b.location.toNat ≤ a.location.toNat → s.RefusesConfiguration) ∧
    (∀ d ∈ s.config.devices, ∀ c ∈ d.registers, c.valueMode = .random → c.max.toNat < c.min.toNat →
      s.RefusesConfiguration) ∧
    (s.config.tSilence = 0 → s.RefusesConfiguration) ∧
    (∀ n, s.config.bufCap = .bytes n → n < 256 → s.RefusesConfiguration) ∧
    ((∀ d ∈ s.config.devices, ∀ (i j : Nat) (a b : Descriptor), i < j → d.registers[i]? = some a →
        d.registers[j]? = some b → a.location.toNat < b.location.toNat) →
      (∀ d ∈ s.config.devices, ∀ c ∈ d.registers, c.valueMode = .random → c.min.toNat ≤ c.max.toNat) →
      1 ≤ s.config.tSilence → (∀ n, s.config.bufCap = .bytes n → 256 ≤ n) →
      s.config.wf = true ∧ ∀ i : Instr, ∃ t, exec i s = .next t)

/-! ## The invariant -/

/-- The state right after reset, under any well-formed configuration, has the invariant; the model's own
reset state among them (its configuration is this model's choice, log 4). -/
def Obligations.ResetHasTheInvariant : Prop :=
  (∀ c : Config, c.wf = true → (State.resetWith c).Inv) ∧ State.reset.Inv

/-- Every step keeps the invariant: `hold` and `need` agree with the FSM state and no waiting base begins with
0, the counter and the buffer keep their bounds, a pending timeout means AwaitingHeader, and `resp` is empty
or a reply of bounded length with a right checksum (10_state.md sections 4 and 6, 41_frame_assembler.md
section 2, 40_crc_engine.md). -/
def Obligations.StepKeepsTheInvariant : Prop :=
  ∀ s t : State, s.Inv → step s = .next t → t.Inv

/-- Nothing is fatal and nothing blocks: from every state with the invariant, whatever operation comes next
and whatever bytes are buffered, the step answers a next state (60_exceptions.md section 1,
70_reset_and_hazards.md section 3). -/
def Obligations.NothingIsFatal : Prop :=
  ∀ s : State, s.Inv → ∃ t, step s = .next t
end

