-- ==== Sys2Proof/Laws/Words.lean ====
section
/-! SUPPORT. The byte-order helpers, the lengths of frames, and what the decoder does on each format. -/

namespace Sys2Proof

/-! ## Bytes and words -/

theorem hi8_toNat (v : Word) : (hi8 v).toNat = v.toNat / 256 := by
  have := v.isLt
  simp only [hi8, BitVec.toNat_ofNat]
  omega

theorem lo8_toNat (v : Word) : (lo8 v).toNat = v.toNat % 256 := by
  simp only [lo8, BitVec.toNat_ofNat]
  omega

theorem be16_toNat (hi lo : Byte) : (be16 hi lo).toNat = hi.toNat * 256 + lo.toNat := by
  have := hi.isLt
  have := lo.isLt
  simp only [be16, BitVec.toNat_ofNat]
  omega

theorem be16_hi8_lo8 (v : Word) : be16 (hi8 v) (lo8 v) = v := by
  apply BitVec.eq_of_toNat_eq
  rw [be16_toNat, hi8_toNat, lo8_toNat]
  omega

theorem hi8_be16 (hi lo : Byte) : hi8 (be16 hi lo) = hi := by
  apply BitVec.eq_of_toNat_eq
  have := lo.isLt
  rw [hi8_toNat, be16_toNat]
  omega

theorem lo8_be16 (hi lo : Byte) : lo8 (be16 hi lo) = lo := by
  apply BitVec.eq_of_toNat_eq
  have := lo.isLt
  rw [lo8_toNat, be16_toNat]
  omega

/-! ## Function codes -/

theorem isExtendedCode_iff (f : Byte) : isExtendedCode f = true ↔ f = 15#8 ∨ f = 16#8 := by
  simp [isExtendedCode]

theorem isUnsupportedCode_iff (f : Byte) :
    isUnsupportedCode f = true ↔
      f ≠ 1#8 ∧ f ≠ 2#8 ∧ f ≠ 3#8 ∧ f ≠ 4#8 ∧ f ≠ 5#8 ∧ f ≠ 6#8 ∧ f ≠ 15#8 ∧ f ≠ 16#8 := by
  simp [isUnsupportedCode, ownFunctionCodes]

/-- The byte count of a payload that fits. -/
theorem payload_count (payload : List Byte) (h : payloadFits payload = true) :
    (BitVec.ofNat 8 payload.length).toNat = payload.length := by
  simp only [payloadFits, decide_eq_true_eq] at h
  simp only [BitVec.toNat_ofNat]
  omega

/-! ## The shape of an encoded frame -/

theorem encode_getD_zero (i : Instr) : (encode i).getD 0 0#8 = i.address := by
  cases i <;> rfl

theorem encode_getD_one (i : Instr) : (encode i).getD 1 0#8 = i.functionCode := by
  cases i <;> rfl

theorem encode_length_ge (i : Instr) : 8 ≤ (encode i).length := by
  cases i <;> simp [encode, encodeBase, encodeExtended]

/-- A frame is address, function code, and at least six more bytes. -/
theorem encode_eq_cons (i : Instr) :
    ∃ t, encode i = i.address :: i.functionCode :: t ∧ 6 ≤ t.length := by
  cases i <;> exact ⟨_, rfl, by simp⟩

/-- A `REQ8` frame is 8 bytes (30_encoding.md R71). -/
theorem encode_length_base (i : Instr) (h : isExtendedCode i.functionCode = false)
    (_hw : i.wellFormed = true) : (encode i).length = 8 := by
  cases i <;> simp_all [encode, encodeBase, Instr.functionCode, isExtendedCode]

/-- A `REQX` frame is 8 bytes and the declared tail (30_encoding.md R72). -/
theorem encode_length_extended (i : Instr) (h : isExtendedCode i.functionCode = true)
    (hw : i.wellFormed = true) :
    (encode i).length = 8 + (((encode i).getD 6 0#8).toNat + 1) := by
  cases i
  case wrmcoil a s q p lo hi =>
    have e : (encode (.wrmcoil a s q p lo hi)).getD 6 0#8 = BitVec.ofNat 8 p.length := rfl
    rw [e, payload_count p hw]
    simp [encode, encodeExtended]
    omega
  case wrmreg a s q p lo hi =>
    have e : (encode (.wrmreg a s q p lo hi)).getD 6 0#8 = BitVec.ofNat 8 p.length := rfl
    rw [e, payload_count p hw]
    simp [encode, encodeExtended]
    omega
  case unsup a f p0 p1 p2 p3 lo hi =>
    have hf := (isUnsupportedCode_iff f).1 hw
    have hx := (isExtendedCode_iff f).1 h
    rcases hx with hx | hx <;> simp [hx] at hf
  all_goals simp [Instr.functionCode, isExtendedCode] at h

/-! ## The decoder, format by format -/

/-- Fewer than 8 bytes are no frame. -/
theorem decode_short (bs : List Byte) (h : bs.length < 8) : decode bs = .error .shortBase := by
  match bs, h with
  | [], _ => rfl
  | [_], _ => rfl
  | [_, _], _ => rfl
  | [_, _, _], _ => rfl
  | [_, _, _, _], _ => rfl
  | [_, _, _, _, _], _ => rfl
  | [_, _, _, _, _, _], _ => rfl
  | [_, _, _, _, _, _, _], _ => rfl
  | _ :: _ :: _ :: _ :: _ :: _ :: _ :: _ :: _, h => simp at h; omega

/-- Eight bytes of another function code than 15 and 16 are a whole `REQ8` frame. -/
theorem decode_base (a f b2 b3 b4 b5 b6 b7 : Byte) (rest : List Byte)
    (h : isExtendedCode f = false) :
    decode (a :: f :: b2 :: b3 :: b4 :: b5 :: b6 :: b7 :: rest) =
      .ok (decodeBase a f b2 b3 b4 b5 b6 b7, rest) := by
  simp [decode, h]

/-- An extended frame: base, payload, checksum. -/
theorem decode_extended (a f b2 b3 b4 b5 n lo hi : Byte) (payload rest : List Byte)
    (h : isExtendedCode f = true) (hn : n.toNat = payload.length) :
    decode ([a, f, b2, b3, b4, b5, n] ++ payload ++ [lo, hi] ++ rest) =
      .ok (decodeExtended a f b2 b3 b4 b5 payload lo hi, rest) := by
  cases payload with
  | nil =>
    simp at hn
    simp [decode, h, hn]
  | cons p ps =>
    have hd : ((p :: ps) ++ ([lo, hi] ++ rest)).drop n.toNat = [lo, hi] ++ rest := by
      rw [hn, List.drop_left]
    have ht : ((p :: ps) ++ ([lo, hi] ++ rest)).take n.toNat = p :: ps := by
      rw [hn, List.take_left]
    simp only [List.cons_append, List.append_assoc, List.nil_append, decode, h, if_true] at hd ht ⊢
    simp only [hd, ht]

end Sys2Proof
end

