-- ==== Sys2Proof/Laws/Crc.lean ====
section
/-! SUPPORT. The Checksum Engine's equations (40_crc_engine.md R106) and the checksum test. -/

namespace Sys2Proof.Machine

theorem crc16_nil : crc16 [] = crcInit := rfl

/-- The engine streams (R106): one more byte is one more `update`. -/
theorem crc16_concat (bs : List Byte) (b : Byte) : crc16 (bs ++ [b]) = crcUpdate (crc16 bs) b := by
  simp [crc16]

theorem crcBytes_length (bs : List Byte) : (crcBytes bs).length = 2 := rfl

theorem appendCrc_length (r : List Byte) : (appendCrc r).length = r.length + 2 := by
  simp [appendCrc, crcBytes_length]

/-- A byte sequence passes the test exactly when it is some bytes and their checksum. -/
theorem checksumValid_iff (f : List Byte) (h : 2 ≤ f.length) :
    checksumValid f = true ↔ ∃ body, f = appendCrc body := by
  constructor
  · intro hv
    simp only [checksumValid, decide_eq_true_eq] at hv
    exact ⟨f.take (f.length - 2), by rw [appendCrc, ← hv, List.take_append_drop]⟩
  · rintro ⟨body, rfl⟩
    simp [checksumValid, appendCrc, crcBytes_length]

/-- A reply with its checksum passes the checksum test (R105). -/
theorem checksumValid_appendCrc (r : List Byte) : checksumValid (appendCrc r) = true :=
  (checksumValid_iff _ (by simp [appendCrc_length])).2 ⟨r, rfl⟩

end Sys2Proof.Machine
end

