-- ==== Sys2Proof/Laws/State.lean ====
section
/-! SUPPORT. One lemma per field per named update of the state, so that no proof unfolds a record update. -/

namespace Sys2Proof.Machine

/-! ### `clearResp` -/

@[simp] theorem State.clearResp_config (s : State) : s.clearResp.config = s.config := rfl
@[simp] theorem State.clearResp_buf (s : State) : s.clearResp.buf = s.buf := rfl
@[simp] theorem State.clearResp_asm (s : State) : s.clearResp.asm = s.asm := rfl
@[simp] theorem State.clearResp_hold (s : State) : s.clearResp.hold = s.hold := rfl
@[simp] theorem State.clearResp_need (s : State) : s.clearResp.need = s.need := rfl
@[simp] theorem State.clearResp_idle (s : State) : s.clearResp.idle = s.idle := rfl
@[simp] theorem State.clearResp_tmo (s : State) : s.clearResp.tmo = s.tmo := rfl
@[simp] theorem State.clearResp_ovf (s : State) : s.clearResp.ovf = s.ovf := rfl
@[simp] theorem State.clearResp_result (s : State) : s.clearResp.result = s.result := rfl
@[simp] theorem State.clearResp_resp (s : State) : s.clearResp.resp = [] := rfl
@[simp] theorem State.clearResp_crc (s : State) : s.clearResp.crc = s.crc := rfl
@[simp] theorem State.clearResp_ops (s : State) : s.clearResp.ops = s.ops := rfl
@[simp] theorem State.clearResp_turns (s : State) : s.clearResp.turns = s.turns := rfl
@[simp] theorem State.clearResp_answers (s : State) : s.clearResp.answers = s.answers := rfl
@[simp] theorem State.clearResp_drawn (s : State) : s.clearResp.drawn = s.drawn := rfl
@[simp] theorem State.clearResp_crcUses (s : State) : s.clearResp.crcUses = s.crcUses := rfl

/-! ### `conclude` -/

@[simp] theorem State.conclude_config (s : State) (r : ResultCode) (p : List Byte) : (s.conclude r p).config = s.config := rfl
@[simp] theorem State.conclude_buf (s : State) (r : ResultCode) (p : List Byte) : (s.conclude r p).buf = s.buf := rfl
@[simp] theorem State.conclude_asm (s : State) (r : ResultCode) (p : List Byte) : (s.conclude r p).asm = s.asm := rfl
@[simp] theorem State.conclude_hold (s : State) (r : ResultCode) (p : List Byte) : (s.conclude r p).hold = s.hold := rfl
@[simp] theorem State.conclude_need (s : State) (r : ResultCode) (p : List Byte) : (s.conclude r p).need = s.need := rfl
@[simp] theorem State.conclude_idle (s : State) (r : ResultCode) (p : List Byte) : (s.conclude r p).idle = s.idle := rfl
@[simp] theorem State.conclude_tmo (s : State) (r : ResultCode) (p : List Byte) : (s.conclude r p).tmo = s.tmo := rfl
@[simp] theorem State.conclude_ovf (s : State) (r : ResultCode) (p : List Byte) : (s.conclude r p).ovf = s.ovf := rfl
@[simp] theorem State.conclude_result (s : State) (r : ResultCode) (p : List Byte) : (s.conclude r p).result = r := rfl
@[simp] theorem State.conclude_resp (s : State) (r : ResultCode) (p : List Byte) : (s.conclude r p).resp = p := rfl
@[simp] theorem State.conclude_crc (s : State) (r : ResultCode) (p : List Byte) : (s.conclude r p).crc = s.crc := rfl
@[simp] theorem State.conclude_ops (s : State) (r : ResultCode) (p : List Byte) : (s.conclude r p).ops = s.ops := rfl
@[simp] theorem State.conclude_turns (s : State) (r : ResultCode) (p : List Byte) : (s.conclude r p).turns = s.turns := rfl
@[simp] theorem State.conclude_answers (s : State) (r : ResultCode) (p : List Byte) : (s.conclude r p).answers = s.answers := rfl
@[simp] theorem State.conclude_drawn (s : State) (r : ResultCode) (p : List Byte) : (s.conclude r p).drawn = s.drawn := rfl
@[simp] theorem State.conclude_crcUses (s : State) (r : ResultCode) (p : List Byte) : (s.conclude r p).crcUses = s.crcUses := rfl

/-! ### `leaveCrc` -/

@[simp] theorem State.leaveCrc_config (s : State) : s.leaveCrc.config = s.config := rfl
@[simp] theorem State.leaveCrc_buf (s : State) : s.leaveCrc.buf = s.buf := rfl
@[simp] theorem State.leaveCrc_asm (s : State) : s.leaveCrc.asm = s.asm := rfl
@[simp] theorem State.leaveCrc_hold (s : State) : s.leaveCrc.hold = s.hold := rfl
@[simp] theorem State.leaveCrc_need (s : State) : s.leaveCrc.need = s.need := rfl
@[simp] theorem State.leaveCrc_idle (s : State) : s.leaveCrc.idle = s.idle := rfl
@[simp] theorem State.leaveCrc_tmo (s : State) : s.leaveCrc.tmo = s.tmo := rfl
@[simp] theorem State.leaveCrc_ovf (s : State) : s.leaveCrc.ovf = s.ovf := rfl
@[simp] theorem State.leaveCrc_result (s : State) : s.leaveCrc.result = s.result := rfl
@[simp] theorem State.leaveCrc_resp (s : State) : s.leaveCrc.resp = s.resp := rfl
@[simp] theorem State.leaveCrc_crc (s : State) : s.leaveCrc.crc = Config.freeCrc s.crcUses := rfl
@[simp] theorem State.leaveCrc_ops (s : State) : s.leaveCrc.ops = s.ops := rfl
@[simp] theorem State.leaveCrc_turns (s : State) : s.leaveCrc.turns = s.turns := rfl
@[simp] theorem State.leaveCrc_answers (s : State) : s.leaveCrc.answers = s.answers := rfl
@[simp] theorem State.leaveCrc_drawn (s : State) : s.leaveCrc.drawn = s.drawn := rfl
@[simp] theorem State.leaveCrc_crcUses (s : State) : s.leaveCrc.crcUses = s.crcUses + 1 := rfl

/-! ### `doReset` -/

@[simp] theorem State.doReset_config (s : State) : s.doReset.config = s.config := rfl
@[simp] theorem State.doReset_buf (s : State) : s.doReset.buf = [] := rfl
@[simp] theorem State.doReset_asm (s : State) : s.doReset.asm = .awaitingHeader := rfl
@[simp] theorem State.doReset_hold (s : State) : s.doReset.hold = [] := rfl
@[simp] theorem State.doReset_need (s : State) : s.doReset.need = 0 := rfl
@[simp] theorem State.doReset_idle (s : State) : s.doReset.idle = 0 := rfl
@[simp] theorem State.doReset_tmo (s : State) : s.doReset.tmo = false := rfl
@[simp] theorem State.doReset_ovf (s : State) : s.doReset.ovf = false := rfl
@[simp] theorem State.doReset_result (s : State) : s.doReset.result = .noFullPackage := rfl
@[simp] theorem State.doReset_resp (s : State) : s.doReset.resp = [] := rfl
@[simp] theorem State.doReset_crc (s : State) : s.doReset.crc = crcAtReset := rfl
@[simp] theorem State.doReset_ops (s : State) : s.doReset.ops = s.ops := rfl
@[simp] theorem State.doReset_turns (s : State) : s.doReset.turns = s.turns := rfl
@[simp] theorem State.doReset_answers (s : State) : s.doReset.answers = s.answers := rfl
@[simp] theorem State.doReset_drawn (s : State) : s.doReset.drawn = s.drawn := rfl
@[simp] theorem State.doReset_crcUses (s : State) : s.doReset.crcUses = s.crcUses := rfl

/-! ### `countTick` -/

@[simp] theorem State.countTick_config (s : State) : s.countTick.config = s.config := rfl
@[simp] theorem State.countTick_buf (s : State) : s.countTick.buf = s.buf := rfl
@[simp] theorem State.countTick_asm (s : State) : s.countTick.asm = s.asm := rfl
@[simp] theorem State.countTick_hold (s : State) : s.countTick.hold = s.hold := rfl
@[simp] theorem State.countTick_need (s : State) : s.countTick.need = s.need := rfl
@[simp] theorem State.countTick_idle (s : State) : s.countTick.idle = min (s.idle + 1) s.config.tSilence := rfl
@[simp] theorem State.countTick_tmo (s : State) : s.countTick.tmo = s.tmo := rfl
@[simp] theorem State.countTick_ovf (s : State) : s.countTick.ovf = s.ovf := rfl
@[simp] theorem State.countTick_result (s : State) : s.countTick.result = s.result := rfl
@[simp] theorem State.countTick_resp (s : State) : s.countTick.resp = s.resp := rfl
@[simp] theorem State.countTick_crc (s : State) : s.countTick.crc = s.crc := rfl
@[simp] theorem State.countTick_ops (s : State) : s.countTick.ops = s.ops := rfl
@[simp] theorem State.countTick_turns (s : State) : s.countTick.turns = s.turns := rfl
@[simp] theorem State.countTick_answers (s : State) : s.countTick.answers = s.answers := rfl
@[simp] theorem State.countTick_drawn (s : State) : s.countTick.drawn = s.drawn := rfl
@[simp] theorem State.countTick_crcUses (s : State) : s.countTick.crcUses = s.crcUses := rfl

/-! ### `abandon` -/

@[simp] theorem State.abandon_config (s : State) : s.abandon.config = s.config := rfl
@[simp] theorem State.abandon_buf (s : State) : s.abandon.buf = [] := rfl
@[simp] theorem State.abandon_asm (s : State) : s.abandon.asm = .awaitingHeader := rfl
@[simp] theorem State.abandon_hold (s : State) : s.abandon.hold = [] := rfl
@[simp] theorem State.abandon_need (s : State) : s.abandon.need = 0 := rfl
@[simp] theorem State.abandon_idle (s : State) : s.abandon.idle = s.idle := rfl
@[simp] theorem State.abandon_tmo (s : State) : s.abandon.tmo = true := rfl
@[simp] theorem State.abandon_ovf (s : State) : s.abandon.ovf = s.ovf := rfl
@[simp] theorem State.abandon_result (s : State) : s.abandon.result = s.result := rfl
@[simp] theorem State.abandon_resp (s : State) : s.abandon.resp = s.resp := rfl
@[simp] theorem State.abandon_crc (s : State) : s.abandon.crc = s.crc := rfl
@[simp] theorem State.abandon_ops (s : State) : s.abandon.ops = s.ops := rfl
@[simp] theorem State.abandon_turns (s : State) : s.abandon.turns = s.turns := rfl
@[simp] theorem State.abandon_answers (s : State) : s.abandon.answers = s.answers := rfl
@[simp] theorem State.abandon_drawn (s : State) : s.abandon.drawn = s.drawn := rfl
@[simp] theorem State.abandon_crcUses (s : State) : s.abandon.crcUses = s.crcUses := rfl

/-! ### `takeBase` -/

@[simp] theorem State.takeBase_config (s : State) : s.takeBase.config = s.config := rfl
@[simp] theorem State.takeBase_buf (s : State) : s.takeBase.buf = s.buf.drop 8 := rfl
@[simp] theorem State.takeBase_asm (s : State) : s.takeBase.asm = s.asm := rfl
@[simp] theorem State.takeBase_hold (s : State) : s.takeBase.hold = [] := rfl
@[simp] theorem State.takeBase_need (s : State) : s.takeBase.need = s.need := rfl
@[simp] theorem State.takeBase_idle (s : State) : s.takeBase.idle = s.idle := rfl
@[simp] theorem State.takeBase_tmo (s : State) : s.takeBase.tmo = s.tmo := rfl
@[simp] theorem State.takeBase_ovf (s : State) : s.takeBase.ovf = s.ovf := rfl
@[simp] theorem State.takeBase_result (s : State) : s.takeBase.result = s.result := rfl
@[simp] theorem State.takeBase_resp (s : State) : s.takeBase.resp = s.resp := rfl
@[simp] theorem State.takeBase_crc (s : State) : s.takeBase.crc = s.crc := rfl
@[simp] theorem State.takeBase_ops (s : State) : s.takeBase.ops = s.ops := rfl
@[simp] theorem State.takeBase_turns (s : State) : s.takeBase.turns = s.turns := rfl
@[simp] theorem State.takeBase_answers (s : State) : s.takeBase.answers = s.answers := rfl
@[simp] theorem State.takeBase_drawn (s : State) : s.takeBase.drawn = s.drawn := rfl
@[simp] theorem State.takeBase_crcUses (s : State) : s.takeBase.crcUses = s.crcUses := rfl

/-! ### `beginExtended` -/

@[simp] theorem State.beginExtended_config (s : State) : s.beginExtended.config = s.config := rfl
@[simp] theorem State.beginExtended_buf (s : State) : s.beginExtended.buf = s.buf.drop 8 := rfl
@[simp] theorem State.beginExtended_asm (s : State) : s.beginExtended.asm = .awaitingExtendedPayload := rfl
@[simp] theorem State.beginExtended_hold (s : State) : s.beginExtended.hold = s.buf.take 8 := rfl
@[simp] theorem State.beginExtended_need (s : State) : s.beginExtended.need = declaredTail (s.buf.take 8) := rfl
@[simp] theorem State.beginExtended_idle (s : State) : s.beginExtended.idle = s.idle := rfl
@[simp] theorem State.beginExtended_tmo (s : State) : s.beginExtended.tmo = s.tmo := rfl
@[simp] theorem State.beginExtended_ovf (s : State) : s.beginExtended.ovf = s.ovf := rfl
@[simp] theorem State.beginExtended_result (s : State) : s.beginExtended.result = s.result := rfl
@[simp] theorem State.beginExtended_resp (s : State) : s.beginExtended.resp = s.resp := rfl
@[simp] theorem State.beginExtended_crc (s : State) : s.beginExtended.crc = s.crc := rfl
@[simp] theorem State.beginExtended_ops (s : State) : s.beginExtended.ops = s.ops := rfl
@[simp] theorem State.beginExtended_turns (s : State) : s.beginExtended.turns = s.turns := rfl
@[simp] theorem State.beginExtended_answers (s : State) : s.beginExtended.answers = s.answers := rfl
@[simp] theorem State.beginExtended_drawn (s : State) : s.beginExtended.drawn = s.drawn := rfl
@[simp] theorem State.beginExtended_crcUses (s : State) : s.beginExtended.crcUses = s.crcUses := rfl

/-! ### `endExtended` -/

@[simp] theorem State.endExtended_config (s : State) : s.endExtended.config = s.config := rfl
@[simp] theorem State.endExtended_buf (s : State) : s.endExtended.buf = s.buf.drop s.need := rfl
@[simp] theorem State.endExtended_asm (s : State) : s.endExtended.asm = .awaitingHeader := rfl
@[simp] theorem State.endExtended_hold (s : State) : s.endExtended.hold = [] := rfl
@[simp] theorem State.endExtended_need (s : State) : s.endExtended.need = 0 := rfl
@[simp] theorem State.endExtended_idle (s : State) : s.endExtended.idle = s.idle := rfl
@[simp] theorem State.endExtended_tmo (s : State) : s.endExtended.tmo = s.tmo := rfl
@[simp] theorem State.endExtended_ovf (s : State) : s.endExtended.ovf = s.ovf := rfl
@[simp] theorem State.endExtended_result (s : State) : s.endExtended.result = s.result := rfl
@[simp] theorem State.endExtended_resp (s : State) : s.endExtended.resp = s.resp := rfl
@[simp] theorem State.endExtended_crc (s : State) : s.endExtended.crc = s.crc := rfl
@[simp] theorem State.endExtended_ops (s : State) : s.endExtended.ops = s.ops := rfl
@[simp] theorem State.endExtended_turns (s : State) : s.endExtended.turns = s.turns := rfl
@[simp] theorem State.endExtended_answers (s : State) : s.endExtended.answers = s.answers := rfl
@[simp] theorem State.endExtended_drawn (s : State) : s.endExtended.drawn = s.drawn := rfl
@[simp] theorem State.endExtended_crcUses (s : State) : s.endExtended.crcUses = s.crcUses := rfl

/-! ### `afterDraw` -/

@[simp] theorem State.afterDraw_config (s : State) : s.afterDraw.config = s.config := rfl
@[simp] theorem State.afterDraw_buf (s : State) : s.afterDraw.buf = s.buf := rfl
@[simp] theorem State.afterDraw_asm (s : State) : s.afterDraw.asm = s.asm := rfl
@[simp] theorem State.afterDraw_hold (s : State) : s.afterDraw.hold = s.hold := rfl
@[simp] theorem State.afterDraw_need (s : State) : s.afterDraw.need = s.need := rfl
@[simp] theorem State.afterDraw_idle (s : State) : s.afterDraw.idle = s.idle := rfl
@[simp] theorem State.afterDraw_tmo (s : State) : s.afterDraw.tmo = s.tmo := rfl
@[simp] theorem State.afterDraw_ovf (s : State) : s.afterDraw.ovf = s.ovf := rfl
@[simp] theorem State.afterDraw_result (s : State) : s.afterDraw.result = s.result := rfl
@[simp] theorem State.afterDraw_resp (s : State) : s.afterDraw.resp = s.resp := rfl
@[simp] theorem State.afterDraw_crc (s : State) : s.afterDraw.crc = s.crc := rfl
@[simp] theorem State.afterDraw_ops (s : State) : s.afterDraw.ops = s.ops := rfl
@[simp] theorem State.afterDraw_turns (s : State) : s.afterDraw.turns = s.turns := rfl
@[simp] theorem State.afterDraw_answers (s : State) : s.afterDraw.answers = s.answers.tail := rfl
@[simp] theorem State.afterDraw_drawn (s : State) : s.afterDraw.drawn = s.drawn + 1 := rfl
@[simp] theorem State.afterDraw_crcUses (s : State) : s.afterDraw.crcUses = s.crcUses := rfl

/-! ### `withOps` -/

@[simp] theorem State.withOps_config (s : State) (o : List HostOp) : (s.withOps o).config = s.config := rfl
@[simp] theorem State.withOps_buf (s : State) (o : List HostOp) : (s.withOps o).buf = s.buf := rfl
@[simp] theorem State.withOps_asm (s : State) (o : List HostOp) : (s.withOps o).asm = s.asm := rfl
@[simp] theorem State.withOps_hold (s : State) (o : List HostOp) : (s.withOps o).hold = s.hold := rfl
@[simp] theorem State.withOps_need (s : State) (o : List HostOp) : (s.withOps o).need = s.need := rfl
@[simp] theorem State.withOps_idle (s : State) (o : List HostOp) : (s.withOps o).idle = s.idle := rfl
@[simp] theorem State.withOps_tmo (s : State) (o : List HostOp) : (s.withOps o).tmo = s.tmo := rfl
@[simp] theorem State.withOps_ovf (s : State) (o : List HostOp) : (s.withOps o).ovf = s.ovf := rfl
@[simp] theorem State.withOps_result (s : State) (o : List HostOp) : (s.withOps o).result = s.result := rfl
@[simp] theorem State.withOps_resp (s : State) (o : List HostOp) : (s.withOps o).resp = s.resp := rfl
@[simp] theorem State.withOps_crc (s : State) (o : List HostOp) : (s.withOps o).crc = s.crc := rfl
@[simp] theorem State.withOps_ops (s : State) (o : List HostOp) : (s.withOps o).ops = o := rfl
@[simp] theorem State.withOps_turns (s : State) (o : List HostOp) : (s.withOps o).turns = s.turns := rfl
@[simp] theorem State.withOps_answers (s : State) (o : List HostOp) : (s.withOps o).answers = s.answers := rfl
@[simp] theorem State.withOps_drawn (s : State) (o : List HostOp) : (s.withOps o).drawn = s.drawn := rfl
@[simp] theorem State.withOps_crcUses (s : State) (o : List HostOp) : (s.withOps o).crcUses = s.crcUses := rfl

/-! ### `takeTurn` -/

@[simp] theorem State.takeTurn_config (s : State) : s.takeTurn.config = s.config := by
  unfold State.takeTurn; split <;> rfl
@[simp] theorem State.takeTurn_buf (s : State) : s.takeTurn.buf = s.buf := by
  unfold State.takeTurn; split <;> rfl
@[simp] theorem State.takeTurn_asm (s : State) : s.takeTurn.asm = s.asm := by
  unfold State.takeTurn; split <;> rfl
@[simp] theorem State.takeTurn_hold (s : State) : s.takeTurn.hold = s.hold := by
  unfold State.takeTurn; split <;> rfl
@[simp] theorem State.takeTurn_need (s : State) : s.takeTurn.need = s.need := by
  unfold State.takeTurn; split <;> rfl
@[simp] theorem State.takeTurn_idle (s : State) : s.takeTurn.idle = s.idle := by
  unfold State.takeTurn; split <;> rfl
@[simp] theorem State.takeTurn_tmo (s : State) : s.takeTurn.tmo = s.tmo := by
  unfold State.takeTurn; split <;> rfl
@[simp] theorem State.takeTurn_ovf (s : State) : s.takeTurn.ovf = s.ovf := by
  unfold State.takeTurn; split <;> rfl
@[simp] theorem State.takeTurn_result (s : State) : s.takeTurn.result = s.result := by
  unfold State.takeTurn; split <;> rfl
@[simp] theorem State.takeTurn_resp (s : State) : s.takeTurn.resp = s.resp := by
  unfold State.takeTurn; split <;> rfl
@[simp] theorem State.takeTurn_crc (s : State) : s.takeTurn.crc = s.crc := by
  unfold State.takeTurn; split <;> rfl
@[simp] theorem State.takeTurn_answers (s : State) : s.takeTurn.answers = s.answers := by
  unfold State.takeTurn; split <;> rfl
@[simp] theorem State.takeTurn_drawn (s : State) : s.takeTurn.drawn = s.drawn := by
  unfold State.takeTurn; split <;> rfl
@[simp] theorem State.takeTurn_crcUses (s : State) : s.takeTurn.crcUses = s.crcUses := by
  unfold State.takeTurn; split <;> rfl
@[simp] theorem State.takeTurn_ops (s : State) : s.takeTurn.ops = s.ops.tail := by
  unfold State.takeTurn; split <;> simp [*]

/-- A turn touches only the model's own fields (log 2). -/
theorem State.takeTurn_frame (s : State) :
    s.takeTurn = { s with ops := s.takeTurn.ops, turns := s.takeTurn.turns } := by
  unfold State.takeTurn; split <;> rfl

/-! ### The next operation, listed or free -/

theorem State.nextOp_listed {s : State} {op : HostOp} {rest : List HostOp} (h : s.ops = op :: rest) :
    s.nextOp = some op := by
  simp [State.nextOp, h]

theorem State.nextOp_free {s : State} (h : s.ops = []) : s.nextOp = Config.freeOp s.turns := by
  simp [State.nextOp, h]

theorem State.takeTurn_listed {s : State} {op : HostOp} {rest : List HostOp} (h : s.ops = op :: rest) :
    s.takeTurn = { s with ops := rest } := by
  simp [State.takeTurn, h]

theorem State.takeTurn_free {s : State} (h : s.ops = []) :
    s.takeTurn = { s with turns := s.turns + 1 } := by
  simp [State.takeTurn, h]

/-! ### `resetWith` -/

@[simp] theorem State.resetWith_config (c : Config) : (State.resetWith c).config = c := rfl
@[simp] theorem State.resetWith_buf (c : Config) : (State.resetWith c).buf = [] := rfl
@[simp] theorem State.resetWith_asm (c : Config) : (State.resetWith c).asm = .awaitingHeader := rfl
@[simp] theorem State.resetWith_hold (c : Config) : (State.resetWith c).hold = [] := rfl
@[simp] theorem State.resetWith_need (c : Config) : (State.resetWith c).need = 0 := rfl
@[simp] theorem State.resetWith_idle (c : Config) : (State.resetWith c).idle = 0 := rfl
@[simp] theorem State.resetWith_tmo (c : Config) : (State.resetWith c).tmo = false := rfl
@[simp] theorem State.resetWith_ovf (c : Config) : (State.resetWith c).ovf = false := rfl
@[simp] theorem State.resetWith_result (c : Config) : (State.resetWith c).result = .noFullPackage := rfl
@[simp] theorem State.resetWith_resp (c : Config) : (State.resetWith c).resp = [] := rfl
@[simp] theorem State.resetWith_crc (c : Config) : (State.resetWith c).crc = crcAtReset := rfl
@[simp] theorem State.resetWith_ops (c : Config) : (State.resetWith c).ops = [] := rfl
@[simp] theorem State.resetWith_turns (c : Config) : (State.resetWith c).turns = 0 := rfl
@[simp] theorem State.resetWith_answers (c : Config) : (State.resetWith c).answers = [] := rfl
@[simp] theorem State.resetWith_drawn (c : Config) : (State.resetWith c).drawn = 0 := rfl
@[simp] theorem State.resetWith_crcUses (c : Config) : (State.resetWith c).crcUses = 0 := rfl

/-! ### `feed`: what it never touches -/

@[simp] theorem State.feed_config (b : Byte) (s : State) : (s.feed b).config = s.config := by
  unfold State.feed; split <;> rfl
@[simp] theorem State.feed_asm (b : Byte) (s : State) : (s.feed b).asm = s.asm := by
  unfold State.feed; split <;> rfl
@[simp] theorem State.feed_hold (b : Byte) (s : State) : (s.feed b).hold = s.hold := by
  unfold State.feed; split <;> rfl
@[simp] theorem State.feed_need (b : Byte) (s : State) : (s.feed b).need = s.need := by
  unfold State.feed; split <;> rfl
@[simp] theorem State.feed_tmo (b : Byte) (s : State) : (s.feed b).tmo = s.tmo := by
  unfold State.feed; split <;> rfl
@[simp] theorem State.feed_result (b : Byte) (s : State) : (s.feed b).result = s.result := by
  unfold State.feed; split <;> rfl
@[simp] theorem State.feed_resp (b : Byte) (s : State) : (s.feed b).resp = s.resp := by
  unfold State.feed; split <;> rfl
@[simp] theorem State.feed_crc (b : Byte) (s : State) : (s.feed b).crc = s.crc := by
  unfold State.feed; split <;> rfl
@[simp] theorem State.feed_ops (b : Byte) (s : State) : (s.feed b).ops = s.ops := by
  unfold State.feed; split <;> rfl
@[simp] theorem State.feed_turns (b : Byte) (s : State) : (s.feed b).turns = s.turns := by
  unfold State.feed; split <;> rfl
@[simp] theorem State.feed_answers (b : Byte) (s : State) : (s.feed b).answers = s.answers := by
  unfold State.feed; split <;> rfl
@[simp] theorem State.feed_drawn (b : Byte) (s : State) : (s.feed b).drawn = s.drawn := by
  unfold State.feed; split <;> rfl
@[simp] theorem State.feed_crcUses (b : Byte) (s : State) : (s.feed b).crcUses = s.crcUses := by
  unfold State.feed; split <;> rfl
@[simp] theorem State.feed_idle (b : Byte) (s : State) : (s.feed b).idle = 0 := by
  unfold State.feed; split <;> rfl

/-! ### `tick`: what it never touches -/

@[simp] theorem State.tick_config (s : State) : s.tick.config = s.config := by
  unfold State.tick; split <;> rfl
@[simp] theorem State.tick_ovf (s : State) : s.tick.ovf = s.ovf := by
  unfold State.tick; split <;> rfl
@[simp] theorem State.tick_result (s : State) : s.tick.result = s.result := by
  unfold State.tick; split <;> rfl
@[simp] theorem State.tick_resp (s : State) : s.tick.resp = s.resp := by
  unfold State.tick; split <;> rfl
@[simp] theorem State.tick_crc (s : State) : s.tick.crc = s.crc := by
  unfold State.tick; split <;> rfl
@[simp] theorem State.tick_ops (s : State) : s.tick.ops = s.ops := by
  unfold State.tick; split <;> rfl
@[simp] theorem State.tick_turns (s : State) : s.tick.turns = s.turns := by
  unfold State.tick; split <;> rfl
@[simp] theorem State.tick_answers (s : State) : s.tick.answers = s.answers := by
  unfold State.tick; split <;> rfl
@[simp] theorem State.tick_drawn (s : State) : s.tick.drawn = s.drawn := by
  unfold State.tick; split <;> rfl
@[simp] theorem State.tick_crcUses (s : State) : s.tick.crcUses = s.crcUses := by
  unfold State.tick; split <;> rfl
@[simp] theorem State.tick_idle (s : State) :
    s.tick.idle = min (s.idle + 1) s.config.tSilence := by
  unfold State.tick; split <;> rfl

end Sys2Proof.Machine
end

