-- ==== Sys2Proof/Laws/Ops.lean ====
section
/-! SUPPORT. The shared operations: everything each can do, said once. -/

namespace Sys2Proof.Machine

/-! ## Feed and Tick -/

theorem feed_cases (b : Byte) (s : State) :
    (s.hasRoom = true ∧ s.feed b = { s with idle := 0, buf := s.buf ++ [b] }) ∨
    (s.hasRoom = false ∧ s.feed b = { s with idle := 0, ovf := true }) := by
  unfold State.feed
  cases s.hasRoom <;> simp

theorem tick_cases (s : State) :
    (s.countTick.silent = true ∧ s.tick = s.countTick.abandon) ∨
    (s.countTick.silent = false ∧ s.tick = s.countTick) := by
  unfold State.tick
  cases s.countTick.silent <;> simp

theorem silent_iff (s : State) :
    s.silent = true ↔
      s.asm = .awaitingExtendedPayload ∧ s.idle = s.config.tSilence ∧ s.buf.length < s.need := by
  simp [State.silent]

/-! ## Extraction -/

theorem discardZeros_short (bs : List Byte) (h : bs.length < 8) : discardZeros bs = bs := by
  cases bs with
  | nil => rfl
  | cons b rest =>
    simp only [List.length_cons] at h
    simp only [discardZeros]
    rw [if_neg (by omega)]

theorem discardZeros_nonzero (b : Byte) (rest : List Byte) (h : b ≠ 0#8) :
    discardZeros (b :: rest) = b :: rest := by
  simp [discardZeros, h]

theorem discardZeros_zero (rest : List Byte) (h : 7 ≤ rest.length) :
    discardZeros (0#8 :: rest) = discardZeros rest := by
  simp only [discardZeros]
  rw [if_pos ⟨by omega, trivial⟩]

/-- Everything the discard can do (41_frame_assembler.md R112): it drops some zeros from the head, and
stops below 8 bytes or at a head that is not zero. -/
theorem discardZeros_spec (bs : List Byte) :
    ∃ k, bs = List.replicate k 0#8 ++ discardZeros bs ∧ (0 < k → 7 ≤ (discardZeros bs).length) ∧
      ((discardZeros bs).length < 8 ∨ (discardZeros bs).getD 0 0#8 ≠ 0#8) := by
  induction bs with
  | nil => exact ⟨0, by simp [discardZeros]⟩
  | cons b rest ih =>
    by_cases hb : 8 ≤ rest.length + 1 ∧ b = 0#8
    · obtain ⟨k, h1, h2, h3⟩ := ih
      have e : discardZeros (b :: rest) = discardZeros rest := by simp [discardZeros, hb]
      rw [e]
      refine ⟨k + 1, ?_, ?_, h3⟩
      · rw [hb.2, List.replicate_succ, List.cons_append, ← h1]
      · intro _
        by_cases hk : 0 < k
        · exact h2 hk
        · have hk0 : k = 0 := by omega
          subst hk0
          rw [List.replicate_zero, List.nil_append] at h1
          rw [← h1]
          omega
    · have e : discardZeros (b :: rest) = b :: rest := by
        simp only [discardZeros]
        rw [if_neg hb]
      rw [e]
      refine ⟨0, by simp, by simp, ?_⟩
      by_cases hl : 8 ≤ rest.length + 1
      · right
        simpa using fun h => hb ⟨hl, h⟩
      · left
        simp
        omega

theorem extractTail_cases (s : State) :
    (s.buf.length < s.need ∧ s.extractTail = (none, s)) ∨
    (s.need ≤ s.buf.length ∧ s.extractTail = (some (s.hold ++ s.buf.take s.need), s.endExtended)) := by
  unfold State.extractTail
  split
  · left; exact ⟨‹_›, rfl⟩
  · right; exact ⟨by omega, rfl⟩

theorem extractBase_cases (s : State) :
    (s.buf.length < 8 ∧ s.extractBase = (none, s)) ∨
    (8 ≤ s.buf.length ∧ isExtendedCode (s.buf.getD 1 0#8) = true ∧
      s.extractBase = s.beginExtended.extractTail) ∨
    (8 ≤ s.buf.length ∧ isExtendedCode (s.buf.getD 1 0#8) = false ∧
      s.extractBase = (some (s.buf.take 8), s.takeBase)) := by
  unfold State.extractBase
  split
  · left; exact ⟨‹_›, rfl⟩
  · right
    cases isExtendedCode (s.buf.getD 1 0#8) with
    | true => left; exact ⟨by omega, rfl, rfl⟩
    | false => right; exact ⟨by omega, rfl, rfl⟩

/-- Too few bytes: nothing is removed (41_frame_assembler.md R118). -/
theorem extractTail_wait (s : State) (h : s.buf.length < s.need) : s.extractTail = (none, s) := by
  simp [State.extractTail, h]

/-- Enough bytes: the frame is complete (41_frame_assembler.md R117). -/
theorem extractTail_done (s : State) (h : s.need ≤ s.buf.length) :
    s.extractTail = (some (s.hold ++ s.buf.take s.need), s.endExtended) := by
  simp [State.extractTail, Nat.not_lt.2 h]

theorem extractTail_frame (s : State) :
    s.extractTail.2 =
      { s with
        buf := s.extractTail.2.buf, asm := s.extractTail.2.asm, hold := s.extractTail.2.hold,
        need := s.extractTail.2.need } := by
  rcases extractTail_cases s with ⟨_, h⟩ | ⟨_, h⟩
  · rw [h]
  · rw [h]; rfl

theorem extractBase_frame (s : State) :
    s.extractBase.2 =
      { s with
        buf := s.extractBase.2.buf, asm := s.extractBase.2.asm, hold := s.extractBase.2.hold,
        need := s.extractBase.2.need } := by
  rcases extractBase_cases s with ⟨_, h⟩ | ⟨_, _, h⟩ | ⟨_, _, h⟩
  · rw [h]
  · rw [h, extractTail_frame]; rfl
  · rw [h]; rfl

/-- Extraction touches only `buf`, `asm`, `hold` and `need` (41_frame_assembler.md R123). -/
theorem extract_frame (s : State) :
    s.extract.2 =
      { s with
        buf := s.extract.2.buf, asm := s.extract.2.asm, hold := s.extract.2.hold,
        need := s.extract.2.need } := by
  unfold State.extract
  split
  · rw [extractBase_frame]
  · exact extractTail_frame s

/-! ## The Dispatcher -/

theorem findDevice_some (ds : List Device) (a : Byte) (d : Device) (h : findDevice ds a = some d) :
    d ∈ ds ∧ d.address = a := by
  refine ⟨List.mem_of_find?_eq_some h, ?_⟩
  simpa using List.find?_some h

theorem findDevice_none_iff (ds : List Device) (a : Byte) :
    findDevice ds a = none ↔ ∀ d ∈ ds, d.address ≠ a := by
  simp [findDevice, List.find?_eq_none]

/-- Everything the Dispatcher can do with an extracted frame (42_dispatcher.md R130). -/
theorem dispatch_cases {f : List Byte} {respond : Device → State → List Byte × State} {s t : State}
    (h : dispatch f respond s = .next t) :
    s.config.wf = true ∧
    ((findDevice s.config.devices (f.getD 0 0#8) = none ∧ t = s.conclude .noSlaveMatch []) ∨
     (∃ d, findDevice s.config.devices (f.getD 0 0#8) = some d ∧ checksumValid f = false ∧
        t = s.leaveCrc.conclude .incorrectCrc []) ∨
     (∃ d, findDevice s.config.devices (f.getD 0 0#8) = some d ∧ checksumValid f = true ∧
        t = (respond d s.leaveCrc).2.conclude .packageOk
          (finishReply (f.getD 1 0#8) (respond d s.leaveCrc).1))) := by
  unfold dispatch at h
  split at h
  case isFalse => simp at h
  case isTrue hw =>
    refine ⟨hw, ?_⟩
    split at h
    case h_1 hf =>
      left
      exact ⟨hf, by simpa using h.symm⟩
    case h_2 d hf =>
      right
      cases hc : checksumValid f with
      | true =>
        right
        simp only [hc, if_true, Host.Outcome.next.injEq] at h
        exact ⟨d, hf, rfl, h.symm⟩
      | false =>
        left
        simp only [hc, Bool.false_eq_true, if_false, Host.Outcome.next.injEq] at h
        exact ⟨d, hf, rfl, h.symm⟩

/-- The Dispatcher's answer under a well-formed configuration. -/
theorem dispatch_of_wf (f : List Byte) (respond : Device → State → List Byte × State) (s : State)
    (hw : s.config.wf = true) :
    dispatch f respond s =
      match findDevice s.config.devices (f.getD 0 0#8) with
      | none => .next (s.conclude .noSlaveMatch [])
      | some d =>
        if checksumValid f then
          .next ((respond d s.leaveCrc).2.conclude .packageOk
            (finishReply (f.getD 1 0#8) (respond d s.leaveCrc).1))
        else .next (s.leaveCrc.conclude .incorrectCrc []) := by
  unfold dispatch
  exact if_pos hw

/-- With a device found and the checksum right, the instruction's own part decides. -/
theorem dispatch_answers (f : List Byte) (respond : Device → State → List Byte × State) (s : State)
    (d : Device) (hw : s.config.wf = true)
    (hd : findDevice s.config.devices (f.getD 0 0#8) = some d) (hc : checksumValid f = true) :
    dispatch f respond s =
      .next ((respond d s.leaveCrc).2.conclude .packageOk
        (finishReply (f.getD 1 0#8) (respond d s.leaveCrc).1)) := by
  rw [dispatch_of_wf f respond s hw, hd]
  simp [hc]

end Sys2Proof.Machine
end

