-- ==== Sys2Proof/Laws/PerInstr.lean ====
section
/-! SUPPORT. `FrameShape`, per instruction: a well-formed instruction's frame carries its address and its
function code in bytes 0 and 1, and has the length 30_encoding.md R73 tells from the function code. -/

namespace Sys2Proof.Laws.FrameShape

/-- The statement about one instruction as syntax. -/
def Statement (i : Instr) : Prop :=
  i.wellFormed = true →
    (encode i).getD 0 0#8 = i.address ∧ (encode i).getD 1 0#8 = i.functionCode ∧
      (encode i).length =
        if isExtendedCode i.functionCode then 9 + ((encode i).getD 6 0#8).toNat else 8

/-- The two formats cover every instruction. -/
theorem of_lengths (i : Instr) : Statement i := by
  intro hw
  refine ⟨encode_getD_zero i, encode_getD_one i, ?_⟩
  cases h : isExtendedCode i.functionCode with
  | true => rw [encode_length_extended i h hw]; simp; omega
  | false => simpa using encode_length_base i h hw

theorem rdcoil (a : Byte) (s n : Word) (lo hi : Byte) : Statement (.rdcoil a s n lo hi) := of_lengths _
theorem rddisc (a : Byte) (s n : Word) (lo hi : Byte) : Statement (.rddisc a s n lo hi) := of_lengths _
theorem rdhold (a : Byte) (s n : Word) (lo hi : Byte) : Statement (.rdhold a s n lo hi) := of_lengths _
theorem rdinp (a : Byte) (s n : Word) (lo hi : Byte) : Statement (.rdinp a s n lo hi) := of_lengths _
theorem wrcoil (a : Byte) (s v : Word) (lo hi : Byte) : Statement (.wrcoil a s v lo hi) := of_lengths _
theorem wrreg (a : Byte) (s v : Word) (lo hi : Byte) : Statement (.wrreg a s v lo hi) := of_lengths _
theorem wrmcoil (a : Byte) (s q : Word) (p : List Byte) (lo hi : Byte) :
    Statement (.wrmcoil a s q p lo hi) := of_lengths _
theorem wrmreg (a : Byte) (s q : Word) (p : List Byte) (lo hi : Byte) :
    Statement (.wrmreg a s q p lo hi) := of_lengths _
theorem unsup (a f p0 p1 p2 p3 lo hi : Byte) : Statement (.unsup a f p0 p1 p2 p3 lo hi) := of_lengths _

end Sys2Proof.Laws.FrameShape
end

