-- ==== Sys2Proof/Laws/Store.lean ====
section
/-! SUPPORT. The Register Store: what the walk and the matcher answer, what a descriptor resolves to, and
that resolution touches nothing but the value source's fields. -/

namespace Sys2Proof.Machine

/-! ## The walk -/

/-- Everything the walk can answer: the first `n` descriptors, at consecutive locations, of kind `k`
(43_register_store.md R157). -/
theorem walkSpan_ok (k : Kind) :
    ∀ (n loc : Nat) (ds span : List Descriptor), walkSpan k loc n ds = .ok span →
      span = ds.take n ∧ span.length = n ∧
        ∀ i c, span[i]? = some c → c.location.toNat = loc + i ∧ c.kind = k := by
  intro n
  induction n with
  | zero =>
    intro loc ds span h
    simp only [walkSpan, Except.ok.injEq] at h
    subst h
    simp
  | succ n ih =>
    intro loc ds span h
    cases ds with
    | nil => simp [walkSpan] at h
    | cons d ds =>
      simp only [walkSpan] at h
      split at h
      case isFalse => simp at h
      case isTrue hd =>
        cases hw : walkSpan k (loc + 1) n ds with
        | error e => simp [hw] at h
        | ok sp =>
          simp only [hw, Except.ok.injEq] at h
          subst h
          obtain ⟨h1, h2, h3⟩ := ih _ _ _ hw
          refine ⟨by simp [h1], by simp [h2], ?_⟩
          intro i c hi
          cases i with
          | zero =>
            simp only [List.getElem?_cons_zero, Option.some.injEq] at hi
            subst hi
            exact hd
          | succ i =>
            simp only [List.getElem?_cons_succ] at hi
            obtain ⟨h4, h5⟩ := h3 i c hi
            exact ⟨by omega, h5⟩

/-- Everything the matcher can answer when it succeeds. -/
theorem matchSpan_ok (ds span : List Descriptor) (k : Kind) (s n : Nat)
    (h : matchSpan ds k s n = .ok span) :
    s + n < 65535 ∧ span.length = n ∧ (∀ c ∈ span, c ∈ ds) ∧
      ∀ i c, span[i]? = some c → c.location.toNat = s + i ∧ c.kind = k := by
  simp only [matchSpan] at h
  split at h
  · simp at h
  case isFalse hb =>
    split at h
    case h_2 => simp at h
    case h_1 first last _ _ =>
      split at h
      · simp at h
      · split at h
        · simp at h
        · split at h
          case isTrue hn =>
            simp only [Except.ok.injEq] at h
            subst h
            simp [hn]
            omega
          case isFalse hn =>
            obtain ⟨h1, h2, h3⟩ := walkSpan_ok k _ _ _ _ h
            refine ⟨by omega, h2, ?_, h3⟩
            intro c hc
            rw [h1] at hc
            exact List.dropWhile_sublist _ |>.subset (List.mem_of_mem_take hc)

/-! ## Resolution -/

/-- The value source's law (43_register_store.md R162). -/
theorem foldInto_mem (min max raw : Word) (h : min.toNat ≤ max.toNat) :
    min.toNat ≤ (foldInto min max raw).toNat ∧ (foldInto min max raw).toNat ≤ max.toNat := by
  unfold foldInto
  split
  · assumption
  · have hlt := Nat.mod_lt raw.toNat (show 0 < max.toNat - min.toNat + 1 by omega)
    have := max.isLt
    simp only [BitVec.toNat_ofNat]
    rw [Nat.mod_eq_of_lt (by omega)]
    omega

/-- An answer that obeys the source's law is taken as it is. -/
theorem foldInto_self (min max raw : Word) (h1 : min.toNat ≤ raw.toNat) (h2 : raw.toNat ≤ max.toNat) :
    foldInto min max raw = raw := by
  simp [foldInto, h1, h2]

/-- What a well-formed descriptor resolves to is one of its values. -/
theorem resolve_mayResolve (d : Descriptor) (s : State) (h : d.rangeOk = true) :
    MayResolve s.config.extReadConst d (resolve d s).1 := by
  unfold MayResolve resolve
  cases hm : d.valueMode with
  | fixed => rfl
  | externalRead => rfl
  | random =>
    simp only [Descriptor.rangeOk, hm, bne_self_eq_false, Bool.false_or, decide_eq_true_eq] at h
    exact foldInto_mem _ _ _ h

/-- Resolution touches only the value source's fields. -/
theorem resolve_frame (d : Descriptor) (s : State) :
    (resolve d s).2 =
      { s with answers := (resolve d s).2.answers, drawn := (resolve d s).2.drawn } := by
  unfold resolve
  cases d.valueMode <;> rfl

/-! ## Draws -/

@[simp] theorem drawsAmong_nil : drawsAmong [] = 0 := rfl

theorem drawsAmong_cons (c : Descriptor) (cells : List Descriptor) :
    drawsAmong (c :: cells) = (if c.valueMode = .random then 1 else 0) + drawsAmong cells := by
  simp [drawsAmong, List.countP_cons, Nat.add_comm]

@[simp] theorem State.answerAt_zero (s : State) : s.answerAt 0 = s.rawAnswer := by
  unfold State.answerAt State.rawAnswer
  cases s.answers <;> rfl

/-- After a draw the next answers are those that were one further on. -/
@[simp] theorem State.answerAt_afterDraw (s : State) (j : Nat) :
    s.afterDraw.answerAt j = s.answerAt (j + 1) := by
  have e : s.drawn + 1 + j = s.drawn + (j + 1) := by omega
  unfold State.answerAt State.afterDraw
  rw [e]
  cases s.answers <;> rfl

/-- What resolving one descriptor leaves: the state after a draw for a `Random` one, else the same state
(43_register_store.md R161 to R163). -/
theorem resolve_state (d : Descriptor) (s : State) :
    (resolve d s).2 = if d.valueMode = .random then s.afterDraw else s := by
  unfold resolve
  cases d.valueMode <;> rfl

/-! ## Lists of descriptors -/

theorem resolveAll_length (ds : List Descriptor) (s : State) :
    (resolveAll ds s).1.length = ds.length := by
  induction ds generalizing s with
  | nil => rfl
  | cons d ds ih => simp [resolveAll, ih]

theorem resolveAll_frame (ds : List Descriptor) (s : State) :
    (resolveAll ds s).2 =
      { s with answers := (resolveAll ds s).2.answers, drawn := (resolveAll ds s).2.drawn } := by
  induction ds generalizing s with
  | nil => rfl
  | cons d ds ih =>
    simp only [resolveAll]
    rw [ih]
    simp only
    rw [resolve_frame]

/-- Each value of a resolved list is one its descriptor may resolve to, in order. -/
theorem resolveAll_mayResolve (ds : List Descriptor) (s : State)
    (h : ∀ d ∈ ds, d.rangeOk = true) (i : Nat) (v : Word) (hv : (resolveAll ds s).1[i]? = some v) :
    ∃ d, ds[i]? = some d ∧ MayResolve s.config.extReadConst d v := by
  induction ds generalizing s i with
  | nil => simp [resolveAll] at hv
  | cons d ds ih =>
    cases i with
    | zero =>
      simp only [resolveAll, List.getElem?_cons_zero, Option.some.injEq] at hv
      exact ⟨d, rfl, hv ▸ resolve_mayResolve d s (h d (by simp))⟩
    | succ i =>
      simp only [resolveAll, List.getElem?_cons_succ] at hv
      obtain ⟨c, hc, hm⟩ := ih (resolve d s).2 (fun e he => h e (by simp [he])) i hv
      rw [resolve_frame] at hm
      exact ⟨c, by simpa using hc, hm⟩

/-- A read touches only the value source's fields (20_memory.md R61). -/
theorem readValues_frame (ds : List Descriptor) (k : Kind) (start n : Nat) (s : State) :
    (readValues ds k start n s).2 =
      { s with
        answers := (readValues ds k start n s).2.answers,
        drawn := (readValues ds k start n s).2.drawn } := by
  unfold readValues
  split
  · exact resolveAll_frame _ _
  · rfl

end Sys2Proof.Machine
end

