-- ==== Sys2Proof/Laws/Step.lean ====
section
/-! SUPPORT. What an instruction, a poll and a step can do, said once each. -/

namespace Sys2Proof.Machine

/-! ## The Device's part of an instruction -/

/-- `Respond` (42_dispatcher.md R139), by instruction. -/
def respondOf : Instr → Device → State → List Byte × State
  | .rdcoil a st n _ _ => readBits a 0x01#8 .coil st n
  | .rddisc a st n _ _ => readBits a 0x02#8 .inputDiscrete st n
  | .rdhold a st n _ _ => readRegs a 0x03#8 .holding st n
  | .rdinp a st n _ _ => readRegs a 0x04#8 .input st n
  | .wrcoil a l v lo hi => echo (encode (.wrcoil a l v lo hi))
  | .wrreg a l v lo hi => echo (encode (.wrreg a l v lo hi))
  | .wrmcoil a _ _ _ _ _ => unsupportedReply a 0x0F#8
  | .wrmreg a _ _ _ _ _ => unsupportedReply a 0x10#8
  | .unsup a f _ _ _ _ _ _ => unsupportedReply a f

/-- Every instruction's meaning is the Dispatcher on its own frame and its own `Respond`. -/
theorem exec_eq_dispatch (i : Instr) (s : State) : exec i s = dispatch (encode i) (respondOf i) s := by
  cases i <;> rfl

theorem readBits_frame (a f : Byte) (k : Kind) (st n : Word) (d : Device) (s : State) :
    (readBits a f k st n d s).2 =
      { s with
        answers := (readBits a f k st n d s).2.answers,
        drawn := (readBits a f k st n d s).2.drawn } := by
  have h := readValues_frame d.registers k st.toNat n.toNat s
  unfold readBits
  generalize readValues d.registers k st.toNat n.toNat s = r at h
  rcases r with ⟨e | v, s'⟩
  · cases e; exact h
  · exact h

theorem readRegs_frame (a f : Byte) (k : Kind) (st n : Word) (d : Device) (s : State) :
    (readRegs a f k st n d s).2 =
      { s with
        answers := (readRegs a f k st n d s).2.answers,
        drawn := (readRegs a f k st n d s).2.drawn } := by
  have h := readValues_frame d.registers k st.toNat n.toNat s
  unfold readRegs
  generalize readValues d.registers k st.toNat n.toNat s = r at h
  rcases r with ⟨e | v, s'⟩
  · cases e; exact h
  · exact h

/-- `Respond` writes no state of SI-CORE (44_read_functions.md R172): only the value source's fields. -/
theorem respondOf_frame (i : Instr) (d : Device) (s : State) :
    (respondOf i d s).2 =
      { s with answers := (respondOf i d s).2.answers, drawn := (respondOf i d s).2.drawn } := by
  cases i
  case rdcoil => exact readBits_frame ..
  case rddisc => exact readBits_frame ..
  case rdhold => exact readRegs_frame ..
  case rdinp => exact readRegs_frame ..
  all_goals rfl

/-! ## An instruction -/

/-- Everything an instruction can do when it answers a next state: unmatched, corrupted, or answered. -/
theorem exec_cases {i : Instr} {s t : State} (h : exec i s = .next t) :
    s.config.wf = true ∧
    ((findDevice s.config.devices i.address = none ∧ t = s.conclude .noSlaveMatch []) ∨
     (∃ d, findDevice s.config.devices i.address = some d ∧ checksumValid (encode i) = false ∧
        t = s.leaveCrc.conclude .incorrectCrc []) ∨
     (∃ d, findDevice s.config.devices i.address = some d ∧ checksumValid (encode i) = true ∧
        t = (respondOf i d s.leaveCrc).2.conclude .packageOk
          (finishReply i.functionCode (respondOf i d s.leaveCrc).1))) := by
  rw [exec_eq_dispatch] at h
  have := dispatch_cases h
  rwa [encode_getD_zero, encode_getD_one] at this

/-- Under a well-formed configuration every instruction answers a next state. -/
theorem exec_next_of_wf (i : Instr) (s : State) (hw : s.config.wf = true) : ∃ t, exec i s = .next t := by
  rw [exec_eq_dispatch, dispatch_of_wf _ _ _ hw]
  split
  · exact ⟨_, rfl⟩
  · split <;> exact ⟨_, rfl⟩

/-- An instruction touches only the reply, the checksum engine's register and the value source. -/
theorem exec_frame {i : Instr} {s t : State} (h : exec i s = .next t) :
    t = { s with
      result := t.result, resp := t.resp, crc := t.crc, answers := t.answers, drawn := t.drawn,
      crcUses := t.crcUses } := by
  obtain ⟨_, ⟨_, rfl⟩ | ⟨d, _, _, rfl⟩ | ⟨d, _, _, rfl⟩⟩ := exec_cases h
  · rfl
  · rfl
  · rw [respondOf_frame]; rfl

/-! ## A poll and a step -/

/-- Everything a poll can do when it answers a next state (42_dispatcher.md R130). -/
theorem poll_cases {s t : State} (h : poll s = .next t) :
    (s.tmo = true ∧ t = State.conclude { s with tmo := false } .frameTimeout []) ∨
    (s.tmo = false ∧ ∃ s', s.clearResp.extract = (none, s') ∧ t = s'.conclude .noFullPackage []) ∨
    (s.tmo = false ∧ ∃ f s' i, s.clearResp.extract = (some f, s') ∧ decode f = .ok (i, []) ∧
      exec i s' = .next t) := by
  unfold poll at h
  cases ht : s.tmo with
  | true =>
    left
    simp only [ht, if_true, Host.Outcome.next.injEq] at h
    exact ⟨rfl, h.symm⟩
  | false =>
    right
    simp only [ht, Bool.false_eq_true, if_false] at h
    rcases he : s.clearResp.extract with ⟨_ | f, s'⟩
    · left
      simp only [he, Host.Outcome.next.injEq] at h
      exact ⟨rfl, s', rfl, h.symm⟩
    · right
      simp only [he, runFrame] at h
      split at h
      case h_1 i hd => exact ⟨rfl, f, s', i, rfl, hd, h⟩
      case h_2 => simp at h

/-- A step performs the first operation of the environment's list. -/
theorem step_of_op {s : State} {op : HostOp} {rest : List HostOp} (hw : s.config.wf = true)
    (h : s.ops = op :: rest) : step s = performOp op { s with ops := rest } := by
  simp [step, performNext, hw, State.nextOp_listed h, State.takeTurn_listed h]

/-- Everything a step can do when it answers a next state: the environment issues nothing, or an operation,
listed or free, is performed. -/
theorem step_cases {s t : State} (h : step s = .next t) :
    s.config.wf = true ∧
    ((s.nextOp = none ∧ t = s.takeTurn) ∨
     ∃ op, s.nextOp = some op ∧ performOp op s.takeTurn = .next t) := by
  unfold step performNext at h
  split at h
  case isFalse => simp at h
  case isTrue hw =>
    refine ⟨hw, ?_⟩
    split at h
    case h_1 ho =>
      left
      exact ⟨ho, by simpa using h.symm⟩
    case h_2 op ho =>
      right
      exact ⟨op, ho, h⟩

/-! ## Runs -/

/-- `runSteps` is the host interface's run of this machine. -/
theorem runSteps_eq_core_run (k : Nat) (s : State) : runSteps k s = Sys2Proof.core.run k s := by
  induction k generalizing s with
  | zero => rfl
  | succ k ih =>
    simp only [runSteps, Host.Core.run]
    have e : Sys2Proof.core.step s = step s := rfl
    rw [e]
    generalize step s = o
    cases o with
    | next t => exact ih t
    | fault r => rfl
    | refused r => rfl

theorem runSteps_one (s : State) : runSteps 1 s = step s := by
  simp only [runSteps]
  cases step s <;> rfl

theorem runSteps_succ {k : Nat} {s t : State} (h : step s = .next t) :
    runSteps (k + 1) s = runSteps k t := by
  simp only [runSteps, h]

/-- Two runs, one after the other. -/
theorem runSteps_add {a b : Nat} {s t : State} (h : runSteps a s = .next t) :
    runSteps (a + b) s = runSteps b t := by
  induction a generalizing s with
  | zero =>
    simp only [runSteps, Host.Outcome.next.injEq] at h
    rw [h, Nat.zero_add]
  | succ a ih =>
    rw [Nat.succ_add]
    simp only [runSteps] at h ⊢
    cases hs : step s with
    | next s' =>
      rw [hs] at h
      exact ih h
    | fault r =>
      rw [hs] at h
      simp at h
    | refused r =>
      rw [hs] at h
      simp at h

end Sys2Proof.Machine
end

