-- ==== Sys2Proof/Tests/Slice0.lean ====
section
/-! SUPPORT. Tests of the model against the spec's worked examples (95_test_vectors.md unless a comment
names another file), and for every obligation a state and operands that meet its hypotheses. -/

namespace Sys2Proof.Machine.Tests

open Sys2Proof Sys2Proof.Machine

/-! ## Helpers -/

/-- A `Fixed` descriptor. -/
def fixed (location : Word) (k : Kind) (max : Word) : Descriptor := ⟨location, 1, k, .fixed, 0#16, max⟩

/-- The parameters of 95_test_vectors.md with these devices. -/
def withDevices (ds : List Device) : Config := { Config.initial with devices := ds }

/-- The state before a `Poll`, reset but for what is buffered. -/
def polling (ds : List Device) (buf : List Byte) : State :=
  { State.resetWith (withDevices ds) with buf := buf, ops := [.poll] }

/-- The result, the reply and the number of bytes still buffered after one step. -/
def shown (s : State) : Option (ResultCode × List Byte × Nat) :=
  (nextState? (step s)).map fun t => (t.result, t.resp, t.buf.length)

theorem next_of_shown {α : Type} {o : Host.Outcome State Fault Refusal} {f : State → α} {v : α}
    (h : (nextState? o).map f = some v) : ∃ t, o = .next t ∧ f t = v := by
  cases o with
  | next t => exact ⟨t, rfl, by simpa [nextState?] using h⟩
  | fault r => simp [nextState?] at h
  | refused r => simp [nextState?] at h

/-- `{address 1, [{10, Holding, Fixed, 122}]}`. -/
def deviceOne : List Device := [⟨1#8, [fixed 10#16 .holding 122#16]⟩]

/-- Device 7 of section 2.5. -/
def deviceSeven : List Device :=
  [⟨7#8,
    [fixed 0#16 .inputDiscrete 1#16, fixed 1#16 .inputDiscrete 1#16, fixed 2#16 .inputDiscrete 0#16,
     fixed 3#16 .input 0xABCD#16, ⟨4#16, 1, .input, .externalRead, 0#16, 0#16⟩,
     ⟨5#16, 1, .holding, .random, 1#16, 2#16⟩, ⟨6#16, 1, .holding, .random, 1#16, 2#16⟩]⟩]

/-- The ten coils of V-SRC-10. -/
def tenCoils : List Device :=
  [⟨1#8,
    [fixed 100#16 .coil 1#16, fixed 101#16 .coil 0#16, fixed 102#16 .coil 1#16, fixed 103#16 .coil 1#16,
     fixed 104#16 .coil 0#16, fixed 105#16 .coil 0#16, fixed 106#16 .coil 0#16, fixed 107#16 .coil 0#16,
     fixed 108#16 .coil 1#16, fixed 109#16 .coil 1#16]⟩]

/-! ## WellFormed: an ill-formed term for each check -/

theorem test_payload_of_256_bytes_is_ill_formed :
    (Instr.wrmreg 1 0 128 (List.replicate 256 0#8) 0 0).wellFormed = false ∧
    (Instr.wrmcoil 1 0 128 (List.replicate 256 0#8) 0 0).wellFormed = false ∧
    (Instr.wrmreg 1 0 127 (List.replicate 255 0#8) 0 0).wellFormed = true := by decide +kernel

theorem test_unsup_of_an_own_code_is_ill_formed :
    ∀ f ∈ ownFunctionCodes, (Instr.unsup 1 f 0 0 0 0 0 0).wellFormed = false := by decide

/-! ## Decoding: a frame of the spec for each constructor, and each rejection -/

theorem test_decode_rdcoil : -- V-SRC-10
    decode [0x01, 0x01, 0x00, 0x64, 0x00, 0x0A, 0xFD, 0xD2] = .ok (.rdcoil 1 100 10 0xFD 0xD2, []) := by
  decide

theorem test_decode_rddisc : -- V-RD-1
    decode [0x07, 0x02, 0x00, 0x00, 0x00, 0x03, 0x38, 0x6D] = .ok (.rddisc 7 0 3 0x38 0x6D, []) := by
  decide

theorem test_decode_rdhold : -- V-RS-1
    decode [0x01, 0x03, 0xFF, 0xFD, 0x00, 0x01, 0x25, 0xEE] =
      .ok (.rdhold 1 65533 1 0x25 0xEE, []) := by decide

theorem test_decode_rdinp : -- V-RD-3
    decode [0x07, 0x04, 0x00, 0x03, 0x00, 0x02, 0x81, 0xAD] = .ok (.rdinp 7 3 2 0x81 0xAD, []) := by
  decide

theorem test_decode_wrcoil : -- V-WR-3
    decode [0x01, 0x05, 0x03, 0xE7, 0x12, 0x34, 0x70, 0xCE] =
      .ok (.wrcoil 1 999 0x1234 0x70 0xCE, []) := by decide

theorem test_decode_wrreg : -- V-WR-1, with one byte of the next frame after it
    decode [0x01, 0x06, 0x00, 0x0A, 0x12, 0x34, 0xA4, 0xBF, 0x01] =
      .ok (.wrreg 1 10 0x1234 0xA4 0xBF, [0x01]) := by decide

theorem test_decode_wrmcoil : -- V-UN-7
    decode [0x01, 0x0F, 0x00, 0x13, 0x00, 0x0A, 0x02, 0xCD, 0x01, 0x72, 0xCB] =
      .ok (.wrmcoil 1 19 10 [0xCD, 0x01] 0x72 0xCB, []) := by decide

theorem test_decode_wrmreg_of_no_bytes : -- V-ASM-10: byte 7 is the checksum's low byte
    decode [0x01, 0x10, 0x00, 0x00, 0x00, 0x00, 0x00, 0x09, 0x50] =
      .ok (.wrmreg 1 0 0 [] 0x09 0x50, []) := by decide

theorem test_decode_unsup : -- V-UN-4
    decode [0x01, 0x2B, 0x0E, 0x01, 0x00, 0x00, 0x76, 0xE4] =
      .ok (.unsup 1 0x2B 0x0E 0x01 0 0 0x76 0xE4, []) := by decide

theorem test_decode_rejects_short_frames : -- V-ASM-5, V-ASM-8
    decode [0x01, 0x03, 0x00, 0x0A, 0x00, 0x01, 0xA4] = .error .shortBase ∧
    decode [0x01, 0x10, 0x00, 0x0A, 0x00, 0x01, 0x02, 0x12, 0x34] = .error .shortTail := by decide

/-- The table's numbering: byte 0 in bits 63..56 (30_encoding.md R83). -/
theorem test_decodeTableWord :
    decodeTableWord 64 0x010300640002C5D4 = some (.rdhold 1 100 2 0xC5 0xD4) := by decide

/-! ## The Checksum Engine -/

theorem test_crc_vectors : -- V-CRC-1 to V-CRC-8
    crc16 [] = 0xFFFF ∧ crc16 [0x00] = 0x40BF ∧ crc16 [0xFF] = 0x00FF ∧ crc16 [0x80] = 0xE0BE ∧
    crc16 [0xFF, 0xFF] = 0x0000 ∧
    crc16 [0x31, 0x32, 0x33, 0x34, 0x35, 0x36, 0x37, 0x38, 0x39] = 0x4B37 := by decide +kernel

/-! ## The matcher (43_register_store.md R166) -/

theorem test_matcher_edges :
    let ds :=
      [fixed 10 .holding 122, fixed 11 .holding 7, fixed 12 .coil 1, fixed 14 .holding 9]
    let succeeds := fun k s n => (matchSpan ds k s n).toBool
    succeeds .holding 10 2 = true ∧ succeeds .holding 10 3 = false ∧ succeeds .coil 12 1 = true ∧
    succeeds .holding 13 1 = false ∧ succeeds .holding 14 1 = true ∧ succeeds .holding 14 2 = false ∧
    succeeds .holding 9 1 = false ∧ succeeds .input 10 1 = false ∧ succeeds .holding 13 0 = true ∧
    succeeds .holding 15 0 = true ∧ succeeds .holding 16 0 = false ∧ succeeds .holding 9 0 = false ∧
    succeeds .holding 65534 1 = false := by decide

/-! ## Instructions, one step each -/

theorem test_rdcoil_packs_high_bit_first : -- V-SRC-10
    shown (polling tenCoils [0x01, 0x01, 0x00, 0x64, 0x00, 0x0A, 0xFD, 0xD2]) =
      some (.packageOk, [0x01, 0x01, 0x02, 0xB0, 0xC0, 0xCC, 0x6C], 0) := by decide +kernel

theorem test_rdcoil_of_another_kind : -- V-RD-6
    shown (polling deviceSeven [0x07, 0x01, 0x00, 0x00, 0x00, 0x01, 0xFD, 0xAC]) =
      some (.packageOk, [0x07, 0x81, 0x02, 0x21, 0x90], 0) := by decide +kernel

theorem test_rddisc : -- V-RD-1
    shown (polling deviceSeven [0x07, 0x02, 0x00, 0x00, 0x00, 0x03, 0x38, 0x6D]) =
      some (.packageOk, [0x07, 0x02, 0x01, 0xC0, 0xA1, 0x50], 0) := by decide +kernel

theorem test_rddisc_across_kinds : -- V-RD-2
    shown (polling deviceSeven [0x07, 0x02, 0x00, 0x00, 0x00, 0x04, 0x79, 0xAF]) =
      some (.packageOk, [0x07, 0x82, 0x02, 0x21, 0x60], 0) := by decide +kernel

theorem test_rdhold_random_takes_the_answers_in_order : -- V-RD-14
    shown
      { polling deviceSeven [0x07, 0x03, 0x00, 0x05, 0x00, 0x02, 0xD4, 0x6C] with
        answers := [2, 1, 1, 2] } =
      some (.packageOk, [0x07, 0x03, 0x04, 0x00, 0x02, 0x00, 0x01, 0xFC, 0x33], 0) := by
  decide +kernel

theorem test_rdhold_at_the_end_of_the_space : -- V-RS-2
    shown
      (polling [⟨1, [fixed 65533 .holding 5, fixed 65534 .holding 6]⟩]
        [0x01, 0x03, 0xFF, 0xFE, 0x00, 0x01, 0xD5, 0xEE]) =
      some (.packageOk, [0x01, 0x83, 0x02, 0xC0, 0xF1], 0) := by decide +kernel

theorem test_rdinp_fixed_and_external : -- V-RD-3
    shown (polling deviceSeven [0x07, 0x04, 0x00, 0x03, 0x00, 0x02, 0x81, 0xAD]) =
      some (.packageOk, [0x07, 0x04, 0x04, 0xAB, 0xCD, 0x01, 0x02, 0xAC, 0x0E], 0) := by decide +kernel

theorem test_rdinp_past_its_kind : -- V-RD-5
    shown (polling deviceSeven [0x07, 0x04, 0x00, 0x03, 0x00, 0x03, 0x40, 0x6D]) =
      some (.packageOk, [0x07, 0x84, 0x02, 0x22, 0xC0], 0) := by decide +kernel

theorem test_wrcoil_is_echoed : -- V-WR-2
    shown (polling deviceOne [0x01, 0x05, 0x00, 0x64, 0xFF, 0x00, 0xCD, 0xE5]) =
      some (.packageOk, [0x01, 0x05, 0x00, 0x64, 0xFF, 0x00, 0xCD, 0xE5], 0) := by decide +kernel

theorem test_wrreg_is_echoed : -- V-WR-1
    shown (polling deviceOne [0x01, 0x06, 0x00, 0x0A, 0x12, 0x34, 0xA4, 0xBF]) =
      some (.packageOk, [0x01, 0x06, 0x00, 0x0A, 0x12, 0x34, 0xA4, 0xBF], 0) := by decide +kernel

theorem test_wrmcoil_is_not_supported : -- V-UN-7
    shown (polling deviceOne [0x01, 0x0F, 0x00, 0x13, 0x00, 0x0A, 0x02, 0xCD, 0x01, 0x72, 0xCB]) =
      some (.packageOk, [0x01, 0x8F, 0x01, 0x85, 0xF0], 0) := by decide +kernel

theorem test_wrmcoil_of_an_unknown_address_is_consumed_whole : -- V-DSP-7
    shown
      (polling deviceOne
        [0x09, 0x0F, 0x00, 0x13, 0x00, 0x0A, 0x02, 0xCD, 0x01, 0x15, 0x0B, 0x01, 0x03]) =
      some (.noSlaveMatch, [], 2) := by decide +kernel

theorem test_wrmreg_is_not_supported : -- V-UN-6
    shown (polling deviceOne [0x01, 0x10, 0x00, 0x0A, 0x00, 0x01, 0x02, 0x12, 0x34, 0xAB, 0x8D]) =
      some (.packageOk, [0x01, 0x90, 0x01, 0x8D, 0xC0], 0) := by decide +kernel

theorem test_unsup_with_its_high_bit_set : -- V-UN-3
    shown (polling deviceOne [0x01, 0x83, 0x00, 0x00, 0x00, 0x00, 0x44, 0x14]) =
      some (.packageOk, [0x01, 0x83, 0x01, 0x80, 0xF0], 0) := by decide +kernel

theorem test_unsup_corrupted : -- V-DSP-4
    shown (polling deviceOne [0x01, 0x07, 0x00, 0x00, 0x00, 0x00, 0x00, 0x00]) =
      some (.incorrectCrc, [], 0) := by decide +kernel

/-! ## The assembler and the timer -/

theorem test_zeros_are_discarded_down_to_eight_bytes : -- V-ASM-3, V-ASM-4
    shown (polling deviceOne (List.replicate 8 0)) = some (.noFullPackage, [], 7) ∧
    shown (polling deviceOne (List.replicate 7 0)) = some (.noFullPackage, [], 7) := by decide +kernel

/-- After V-ASM-8, with `T_SILENCE = 3`. -/
def waiting : State :=
  { State.resetWith { withDevices deviceOne with tSilence := 3 } with
    buf := [0x34], asm := .awaitingExtendedPayload,
    hold := [0x01, 0x10, 0x00, 0x0A, 0x00, 0x01, 0x02, 0x12], need := 3 }

theorem test_split_frame_waits : -- V-ASM-8
    nextState?
      (step
        { waiting with
          buf := [0x01, 0x10, 0x00, 0x0A, 0x00, 0x01, 0x02, 0x12, 0x34], asm := .awaitingHeader,
          hold := [], need := 0, ops := [.poll] }) = some waiting ∧
    waiting.statusRegister = 4#4 := by decide +kernel

theorem test_third_tick_abandons : -- V-TMR-1
    nextState? (step { waiting with idle := 2, ops := [.tick] }) =
      some
        { waiting with
          idle := 3, buf := [], asm := .awaitingHeader, hold := [], need := 0, tmo := true } := by
  decide +kernel

theorem test_full_buffer_drops : -- V-OVF-1
    (nextState?
        (step
          { State.resetWith { withDevices deviceOne with bufCap := .bytes 256 } with
            idle := 2, buf := List.replicate 256 0, ops := [.feed 0] })).map
        (fun t => (t.buf.length, t.ovf, t.idle)) = some (256, true, 0) := by decide +kernel

/-! ## A step runs the word that is placed -/

theorem test_withFetchWord_from_reset : -- no device: R135
    shown (State.reset.withFetchWord 64 0x010300640002C5D4) = some (.noSlaveMatch, [], 0) ∧
    shown (State.reset.withFetchWord 64 0x0010000000000000) = some (.noSlaveMatch, [], 0) ∧
    shown (State.reset.withFetchWord 64 0x0003000000000000) = some (.noSlaveMatch, [], 0) := by
  decide +kernel

/-! ## Witnesses: states and operands that meet the hypotheses of each obligation -/

/-- One cell of each kind, and one of each value mode, at locations 0 to 3. -/
def sampleDevice : Device :=
  ⟨1#8,
    [fixed 0#16 .coil 1#16, fixed 1#16 .inputDiscrete 0xABCD#16,
     ⟨2#16, 1, .holding, .random, 1#16, 2#16⟩, ⟨3#16, 1, .input, .externalRead, 0#16, 0#16⟩]⟩

/-- The sample device, a second one of the same address, and the smallest finite buffer. -/
def sampleConfig : Config where
  devices := [sampleDevice, ⟨1#8, []⟩]
  bufCap := .bytes 256
  tSilence := 3
  extReadConst := 0x0102#16

/-- The state after reset under the sample configuration, with these operations waiting. -/
def sample (ops : List HostOp) : State := (State.resetWith sampleConfig).withOps ops

theorem sample_wf : sampleConfig.wf = true := by decide

theorem sample_selected : Selected sampleConfig 1#8 sampleDevice := ⟨[], [_], rfl, by simp, rfl⟩

theorem readable_iff (d : Device) (k : Kind) (s n : Nat) (hn : n ≠ 0) :
    Readable d k s n ↔
      s + n < 65535 ∧ ∀ i, i < n → ∃ c ∈ d.registers, c.location.toNat = s + i ∧ c.kind = k := by
  simp [Readable, hn]

theorem sample_readable :
    Readable sampleDevice .coil 0 1 ∧ Readable sampleDevice .inputDiscrete 1 1 ∧
    Readable sampleDevice .holding 2 1 ∧ Readable sampleDevice .input 3 1 ∧
    Readable sampleDevice .holding 4 0 := by
  refine ⟨?_, ?_, ?_, ?_, by decide, ⟨_, _, rfl, rfl, by decide, by decide⟩⟩ <;>
    exact (readable_iff _ _ _ _ (by decide)).2 (by decide)

theorem sample_unreadable :
    ¬ Readable sampleDevice .coil 65534 1 ∧ ¬ Readable sampleDevice .inputDiscrete 0 1 ∧
    ¬ Readable sampleDevice .holding 2 2 ∧ ¬ Readable sampleDevice .input 4 1 := by
  refine ⟨?_, ?_, ?_, ?_⟩ <;> exact mt (readable_iff _ _ _ _ (by decide)).1 (by decide)

theorem intact_of (i : Instr) (body : List Byte) (h : encode i = appendCrc body) : Intact i := ⟨body, h⟩

theorem sample_reads_intact :
    Intact (.rdcoil 1 0 1 0xFD 0xCA) ∧ Intact (.rddisc 1 1 1 0xE8 0x0A) ∧
    Intact (.rdhold 1 2 1 0x25 0xCA) ∧ Intact (.rdinp 1 3 1 0xC1 0xCA) ∧
    Intact (.rdhold 1 4 0 0x04 0x0B) :=
  ⟨intact_of _ [1, 1, 0, 0, 0, 1] (by decide +kernel), intact_of _ [1, 2, 0, 1, 0, 1] (by decide +kernel),
   intact_of _ [1, 3, 0, 2, 0, 1] (by decide +kernel), intact_of _ [1, 4, 0, 3, 0, 1] (by decide +kernel),
   intact_of _ [1, 3, 0, 4, 0, 0] (by decide +kernel)⟩

theorem sample_bad_reads_intact :
    Intact (.rdcoil 1 65534 1 0xAC 0x2E) ∧ Intact (.rddisc 1 0 1 0xB9 0xCA) ∧
    Intact (.rdhold 1 2 2 0x65 0xCB) ∧ Intact (.rdinp 1 4 1 0x70 0x0B) :=
  ⟨intact_of _ [1, 1, 0xFF, 0xFE, 0, 1] (by decide +kernel),
   intact_of _ [1, 2, 0, 0, 0, 1] (by decide +kernel), intact_of _ [1, 3, 0, 2, 0, 2] (by decide +kernel),
   intact_of _ [1, 4, 0, 4, 0, 1] (by decide +kernel)⟩

theorem witness_DecodeOfEncodeIsTheInstruction :
    (Instr.wrmreg 1 0 127 (List.replicate 255 0xFE#8) 0xF9 0xAE).wellFormed = true ∧
    (Instr.unsup 1 0 0 0 0 0 0 0).wellFormed = true := by decide +kernel

theorem witness_EncodeOfDecodeIsTheBytes :
    decode [0x01, 0x06, 0x00, 0x0A, 0x12, 0x34, 0xA4, 0xBF, 0x01] =
      .ok (.wrreg 1 10 0x1234 0xA4 0xBF, [0x01]) := test_decode_wrreg

theorem witness_TableWordSelectsItsRow : (0xFFFFFFFFFFFFFFFF : Nat) < 2 ^ 64 := by decide

theorem witness_PlacedWordIsRunByTheNextStep :
    (sample [.tick]).config.wf = true ∧ (0x0010FFFFFFFFFFFF : Nat) < 2 ^ 64 := by decide

theorem witness_ChecksumTestIsZeroResidue : 2 ≤ ([0xFF, 0xFF] : List Byte).length := by decide

theorem witness_CrcSeesEveryOneByteChange : (0x00#8 : Byte) ≠ 0x80#8 := by decide

theorem witness_ResetGivesTheResetState :
    let s := { waiting with ovf := true, ops := [.reset, .poll] }
    s.config.wf = true ∧ s.ops = .reset :: [.poll] := by decide

theorem witness_FeedAppendsOrDrops :
    let op := HostOp.feed 0x7F
    ({ State.reset with ops := [op] }.config.wf = true ∧ State.reset.config.bufCap = .unbounded) ∧
    (let s := { sample [op] with buf := List.replicate 255 0#8 }
     s.config.wf = true ∧ s.ops = op :: [] ∧ s.config.bufCap = .bytes 256 ∧ s.buf.length < 256) ∧
    (let s := { sample [op] with buf := List.replicate 256 0#8 }
     s.config.wf = true ∧ s.ops = op :: [] ∧ s.config.bufCap = .bytes 256 ∧ 256 ≤ s.buf.length) := by
  decide +kernel

theorem witness_TickCountsAndAbandons :
    (let s := { waiting with idle := 2, buf := [0x34, 0xAB], ops := [.tick] }
     s.config.wf = true ∧ s.ops = .tick :: [] ∧ s.asm = .awaitingExtendedPayload ∧
       s.config.tSilence ≤ s.idle + 1 ∧ s.buf.length < s.need) ∧
    (let s := { waiting with idle := 1, ops := [.tick] }
     s.config.wf = true ∧ s.ops = .tick :: [] ∧ s.idle + 1 < s.config.tSilence) ∧
    (let s := { waiting with idle := 3, buf := [0x34, 0xAB, 0x8D], ops := [.tick] }
     s.config.wf = true ∧ s.ops = .tick :: [] ∧ s.need ≤ s.buf.length) ∧
    (let s := sample [.tick]
     s.config.wf = true ∧ s.ops = .tick :: [] ∧ s.asm = .awaitingHeader) := by decide

theorem witness_ShortBufferIsLeftAlone :
    (let s := { sample [.poll] with buf := List.replicate 7 0#8 }
     s.config.wf = true ∧ s.asm = .awaitingHeader ∧ s.ops = .poll :: [] ∧ s.tmo = false ∧
       s.buf.length < 8) ∧
    (let s := { sample [.poll] with buf := List.replicate 8 0#8 }
     s.config.wf = true ∧ s.asm = .awaitingHeader ∧ s.ops = .poll :: [] ∧ s.tmo = false ∧
       (discardZeros s.buf).length < 8) ∧
    (let s := { sample [.tick] with idle := 3, buf := [0x01] }
     s.config.wf = true ∧ s.asm = .awaitingHeader ∧ s.ops = .tick :: []) := by decide

theorem witness_NoExtractedFrameBeginsWithZero :
    (let s := { sample [] with buf := [0, 1, 0, 0, 0, 0, 0, 0, 0] }
     s.asm = .awaitingHeader ∧
       s.extract = (some [1, 0, 0, 0, 0, 0, 0, 0], { sample [] with buf := [] })) ∧
    (let s := { waiting with buf := [0x34, 0xAB, 0x8D] }
     s.AssemblerConsistent ∧ s.asm = .awaitingExtendedPayload ∧
       s.extract.1 = some [0x01, 0x10, 0x00, 0x0A, 0x00, 0x01, 0x02, 0x12, 0x34, 0xAB, 0x8D]) := by decide

theorem witness_NoExtractedFrameBeginsWithZero_poll :
    { waiting with buf := [0x34, 0xAB, 0x8D], ops := [.poll] }.AssemblerConsistent ∧
    (∃ t, step { waiting with buf := [0x34, 0xAB, 0x8D], ops := [.poll] } = .next t ∧
      t.result = .packageOk) ∧
    ∃ t, step { waiting with buf := [0x34, 0xAB, 0x8C], ops := [.poll] } = .next t ∧
      t.result = .incorrectCrc :=
  ⟨by decide, next_of_shown (f := State.result) (by decide +kernel),
    next_of_shown (f := State.result) (by decide +kernel)⟩

theorem witness_StepRunsTheFrameAtTheHead :
    let i := Instr.wrmreg 1 10 1 [0x12, 0x34] 0xAB 0x8D
    let s := { sample [.poll] with
      buf := [0, 0, 0x01, 0x10, 0x00, 0x0A, 0x00, 0x01, 0x02, 0x12, 0x34, 0xAB, 0x8D, 0x07] }
    s.config.wf = true ∧ s.ops = .poll :: [] ∧ s.tmo = false ∧ s.asm = .awaitingHeader ∧ s.hold = [] ∧
      s.need = 0 ∧ i.wellFormed = true ∧ i.address ≠ 0#8 ∧
      s.buf = List.replicate 2 0#8 ++ encode i ++ [0x07] := by decide

theorem witness_StepRunsTheCompletedExtendedFrame :
    let i := Instr.wrmreg 1 10 1 [0x12, 0x34] 0xAB 0x8D
    let s := { waiting with buf := [0x34, 0xAB, 0x8D], ops := [.poll] }
    s.config.wf = true ∧ s.ops = .poll :: [] ∧ s.tmo = false ∧ s.asm = .awaitingExtendedPayload ∧
      i.wellFormed = true ∧ encode i = s.hold ++ [0x34, 0xAB, 0x8D] ∧ s.need = 3 ∧
      s.buf = [0x34, 0xAB, 0x8D] ++ [] := by decide

theorem witness_ExtendedFrameWaitsForItsTail :
    (let base : List Byte := [0x01, 0x10, 0x00, 0x0A, 0x00, 0x01, 0x02, 0x12]
     let s := { sample [.poll] with buf := [0x00] ++ base ++ [0x34, 0xAB] }
     s.config.wf = true ∧ s.ops = .poll :: [] ∧ s.tmo = false ∧ s.asm = .awaitingHeader ∧
       s.buf = List.replicate 1 0#8 ++ base ++ [0x34, 0xAB] ∧ base.length = 8 ∧ base.getD 0 0#8 ≠ 0#8 ∧
       base.getD 1 0#8 = 16#8 ∧ [0x34, 0xAB].length < (base.getD 6 0#8).toNat + 1) ∧
    (let s := { waiting with buf := [0x34, 0xAB], ops := [.poll] }
     s.config.wf = true ∧ s.ops = .poll :: [] ∧ s.tmo = false ∧ s.asm = .awaitingExtendedPayload ∧
       s.buf.length < s.need) := by decide

theorem witness_AbandonedFrameIsReportedOnce :
    let s := { sample [.poll] with tmo := true }
    s.config.wf = true ∧ s.ops = .poll :: [] ∧ s.tmo = true := by decide

theorem witness_SplitExtendedFrameIsAnsweredWhole :
    let i := Instr.wrmreg 1 10 1 [0x12, 0x34] 0xAB 0x8D
    ∀ m ∈ [0, 7, 8, 10],
      let s := sample
        (((encode i).take m).map HostOp.feed ++ [.poll] ++ ((encode i).drop m).map HostOp.feed ++ [.poll])
      s.config.wf = true ∧ i.wellFormed = true ∧ isExtendedCode i.functionCode = true ∧
        i.address ≠ 0#8 ∧ m < (encode i).length ∧
        Capacity.admits s.config.bufCap (if m < 8 then (encode i).length else m) = true ∧
        s.buf = [] ∧ s.asm = .awaitingHeader ∧ s.hold = [] ∧ s.need = 0 ∧ s.tmo = false := by decide

theorem witness_SilenceEndsTheWait :
    let s := { waiting with idle := 1, ops := [.tick, .tick, .tick, .poll] }
    s.Inv ∧ s.asm = .awaitingExtendedPayload ∧ s.buf.length < s.need ∧
      s.ops = List.replicate s.config.tSilence .tick ++ [.poll] := by decide

theorem witness_PollConsumesOneFrameOrNone :
    let s := polling deviceOne [0x00, 0x01, 0x06, 0x00, 0x0A, 0x12, 0x34, 0xA4, 0xBF]
    s.AssemblerConsistent ∧ s.ops = .poll :: [] ∧ ∃ t, step s = .next t ∧ t.result = .packageOk :=
  ⟨by decide, rfl, next_of_shown (f := State.result) (by decide +kernel)⟩

theorem witness_UnknownAddressIsIgnored :
    (sample []).config.wf = true ∧
      ∀ d ∈ (sample []).config.devices, d.address ≠ (Instr.rdhold 5 10 1 0 0).address := by decide

theorem witness_CorruptedFrameIsIgnored :
    let i := Instr.rdhold 1 10 1 0xA5 0x08
    let f := encode i
    let c := crc16 (f.take (f.length - 2))
    (sample []).config.wf = true ∧ (∃ d ∈ (sample []).config.devices, d.address = i.address) ∧
      ¬ (f.getD (f.length - 2) 0#8 = lo8 c ∧ f.getD (f.length - 1) 0#8 = hi8 c) := by decide +kernel

theorem witness_FirstDeviceWithTheAddressAnswers :
    Selected (sample []).config (Instr.rdhold 1 2 1 0x25 0xCA).address sampleDevice ∧
      ∃ t, exec (.rdhold 1 2 1 0x25 0xCA) (sample []) = .next t ∧ t.result = .packageOk :=
  ⟨sample_selected, next_of_shown (f := State.result) (by decide +kernel)⟩

theorem witness_ReplyNamesAddressAndFunction :
    ∃ t, exec (.rdinp 1 4 1 0x70 0x0B) (sample []) = .next t ∧ t.result = .packageOk :=
  next_of_shown (f := State.result) (by decide +kernel)

theorem witness_MatcherSucceedsExactlyOnReadableSpans :
    sampleDevice.ascending = true ∧ Readable sampleDevice .holding 4 0 ∧
      ¬ Readable sampleDevice .holding 2 2 :=
  ⟨by decide, sample_readable.2.2.2.2, sample_unreadable.2.2.1⟩

theorem witness_BitReadsAnswerTheirCells :
    (sample []).config.wf = true ∧ Selected (sample []).config 1#8 sampleDevice ∧
    (Intact (.rdcoil 1 0 1 0xFD 0xCA) ∧ Readable sampleDevice .coil 0 1) ∧
    (Intact (.rddisc 1 1 1 0xE8 0x0A) ∧ Readable sampleDevice .inputDiscrete 1 1) :=
  ⟨sample_wf, sample_selected, ⟨sample_reads_intact.1, sample_readable.1⟩,
    ⟨sample_reads_intact.2.1, sample_readable.2.1⟩⟩

theorem witness_RegisterReadsAnswerTheirCells :
    (sample []).config.wf = true ∧ Selected (sample []).config 1#8 sampleDevice ∧
    (Intact (.rdhold 1 2 1 0x25 0xCA) ∧ Readable sampleDevice .holding 2 1) ∧
    (Intact (.rdhold 1 4 0 0x04 0x0B) ∧ Readable sampleDevice .holding 4 0) ∧
    (Intact (.rdinp 1 3 1 0xC1 0xCA) ∧ Readable sampleDevice .input 3 1) :=
  ⟨sample_wf, sample_selected, ⟨sample_reads_intact.2.2.1, sample_readable.2.2.1⟩,
    ⟨sample_reads_intact.2.2.2.2, sample_readable.2.2.2.2⟩,
    ⟨sample_reads_intact.2.2.2.1, sample_readable.2.2.2.1⟩⟩

/-- Two `Random` cells in one span, with two lawful answers that differ (V-RD-14). -/
theorem witness_RegisterReadsAnswerTheirCells_random :
    ∃ d ∈ deviceSeven,
      Selected (withDevices deviceSeven) 7#8 d ∧ (withDevices deviceSeven).wf = true ∧
      Intact (.rdhold 7 5 2 0xD4 0x6C) ∧ Readable d .holding 5 2 ∧
      SpanCells d .holding 5 2 (d.registers.drop 5) ∧ drawsAmong (d.registers.drop 5) = 2 :=
  ⟨_, List.mem_cons_self, ⟨[], [], rfl, by simp, rfl⟩, by decide,
    intact_of _ [7, 3, 0, 5, 0, 2] (by decide +kernel), (readable_iff _ _ _ _ (by decide)).2 (by decide),
    ⟨rfl, fun i c h => by
      match i, h with
      | 0, h => cases h; decide
      | 1, h => cases h; decide
      | _ + 2, h => cases h⟩, by decide⟩

theorem witness_UnreadableSpansAnswerExceptionTwo :
    (sample []).config.wf = true ∧ Selected (sample []).config 1#8 sampleDevice ∧
    (Intact (.rdcoil 1 65534 1 0xAC 0x2E) ∧ ¬ Readable sampleDevice .coil 65534 1) ∧
    (Intact (.rddisc 1 0 1 0xB9 0xCA) ∧ ¬ Readable sampleDevice .inputDiscrete 0 1) ∧
    (Intact (.rdhold 1 2 2 0x65 0xCB) ∧ ¬ Readable sampleDevice .holding 2 2) ∧
    (Intact (.rdinp 1 4 1 0x70 0x0B) ∧ ¬ Readable sampleDevice .input 4 1) :=
  ⟨sample_wf, sample_selected, ⟨sample_bad_reads_intact.1, sample_unreadable.1⟩,
    ⟨sample_bad_reads_intact.2.1, sample_unreadable.2.1⟩,
    ⟨sample_bad_reads_intact.2.2.1, sample_unreadable.2.2.1⟩,
    ⟨sample_bad_reads_intact.2.2.2, sample_unreadable.2.2.2⟩⟩

theorem witness_AddressSpaceEndIsUnreadable : -- the device of V-RS-1
    let d : Device := ⟨1#8, [fixed 65533#16 .holding 5#16, fixed 65534#16 .holding 6#16]⟩
    65535 ≤ 65535 + 0 ∧ (0 < 1 ∧ 65533 < 65534) ∧ d.ascending = true ∧
      fixed 65533#16 .holding 5#16 ∈ d.registers ∧
      (fixed 65533#16 .holding 5#16).location = 65533#16 := by decide

theorem witness_FixedResolvesToMax : (fixed 0 .coil 1).valueMode = .fixed := rfl

theorem witness_RandomDrawsAFreshAnswer :
    (let d : Descriptor := ⟨2#16, 1, .holding, .random, 1#16, 2#16⟩
     d.rangeOk = true ∧ d.valueMode = .random ∧ d.min.toNat ≤ (1#16).toNat ∧
       (2#16).toNat ≤ d.max.toNat) ∧
    { sample [] with answers := [1#16] }.answers = 1#16 :: [] ∧
    { sample [] with answers := [2#16] }.answers = 2#16 :: [] ∧
    (let d : Descriptor := ⟨3#16, 1, .input, .externalRead, 0#16, 0#16⟩
     d.rangeOk = true ∧ d.valueMode = .externalRead) ∧
    ∀ d ∈ deviceSeven, ∀ c ∈ d.registers.drop 5, c.rangeOk = true :=
  ⟨by decide, rfl, rfl, by decide, by decide⟩

/-- Another state of the configuration of `polling deviceOne []`. -/
def otherState : State :=
  { polling deviceOne [0x01] with ovf := true, result := .frameTimeout, drawn := 7 }

theorem witness_ReplyDependsOnConfigurationAlone :
    (polling deviceOne []).config = otherState.config ∧
    (∀ d ∈ deviceOne, d.address = (Instr.rdhold 1 10 1 0xA4 0x08).address →
      ∀ c ∈ d.registers, c.valueMode ≠ .random) ∧
    (∃ t, exec (.rdhold 1 10 1 0xA4 0x08) (polling deviceOne []) = .next t ∧ t.result = .packageOk) ∧
      ∃ t, exec (.rdhold 1 10 1 0xA4 0x08) otherState = .next t ∧ t.result = .packageOk :=
  ⟨rfl, by decide, next_of_shown (f := State.result) (by decide +kernel),
    next_of_shown (f := State.result) (by decide +kernel)⟩

theorem witness_DescriptorLengthHasNoEffect :
    ∃ t, exec (.rdcoil 1 0 1 0xFD 0xCA) (sample []) = .next t ∧ t.result = .packageOk :=
  next_of_shown (f := State.result) (by decide +kernel)

theorem witness_SingleWritesAreEchoed :
    (sample []).config.wf = true ∧ Selected (sample []).config 1#8 sampleDevice ∧
    Intact (.wrcoil 1 999 0x1234 0x70 0xCE) ∧ Intact (.wrreg 1 10 0x1234 0xA4 0xBF) :=
  ⟨sample_wf, sample_selected, intact_of _ [1, 5, 3, 0xE7, 0x12, 0x34] (by decide +kernel),
    intact_of _ [1, 6, 0, 0x0A, 0x12, 0x34] (by decide +kernel)⟩

theorem witness_UnsupportedFunctionsAnswerExceptionOne :
    (sample []).config.wf = true ∧ Selected (sample []).config 1#8 sampleDevice ∧
    Intact (.wrmcoil 1 19 10 [0xCD, 0x01] 0x72 0xCB) ∧
    Intact (.wrmreg 1 10 1 [0x12, 0x34] 0xAB 0x8D) ∧ Intact (.wrmreg 1 0 0 [] 0x09 0x50) ∧
    ((Instr.unsup 1 0 0 0 0 0 0x01 0xCA).wellFormed = true ∧ Intact (.unsup 1 0 0 0 0 0 0x01 0xCA)) ∧
    (Instr.unsup 1 0x83 0 0 0 0 0x44 0x14).wellFormed = true ∧
      Intact (.unsup 1 0x83 0 0 0 0 0x44 0x14) :=
  ⟨sample_wf, sample_selected,
    intact_of _ [1, 15, 0, 0x13, 0, 0x0A, 2, 0xCD, 1] (by decide +kernel),
    intact_of _ [1, 16, 0, 0x0A, 0, 1, 2, 0x12, 0x34] (by decide +kernel),
    intact_of _ [1, 16, 0, 0, 0, 0, 0] (by decide +kernel),
    ⟨by decide, intact_of _ [1, 0, 0, 0, 0, 0] (by decide +kernel)⟩,
    by decide, intact_of _ [1, 0x83, 0, 0, 0, 0] (by decide +kernel)⟩

theorem witness_InstructionsChangeOnlyTheReply :
    (∃ t, exec (.rdhold 1 2 1 0x25 0xCA) (sample []) = .next t ∧ t.drawn = 1) ∧
    (∃ t, exec (.wrreg 1 10 0x1234 0xA4 0xBF) (sample []) = .next t ∧ t.result = .packageOk) ∧
      (Instr.wrreg 1 10 0x1234 0xA4 0xBF).functionCode ∉ [1#8, 2#8, 3#8, 4#8] :=
  ⟨next_of_shown (f := State.drawn) (by decide +kernel),
    next_of_shown (f := State.result) (by decide +kernel), by decide⟩

/-- For `StepsKeepTheConfiguration` and both clauses of `BytesLeaveInFifoOrder`. -/
theorem witness_BytesLeaveInFifoOrder :
    (∃ t, step { sample [.poll] with buf := [1, 2, 3, 4, 5, 6, 7, 8, 9] } = .next t ∧ t.buf = [9]) ∧
    (∃ t, step { sample [.feed 4] with buf := [1] } = .next t ∧ t.buf = [1, 4]) :=
  ⟨next_of_shown (f := State.buf) (by decide +kernel), next_of_shown (f := State.buf) (by decide +kernel)⟩

theorem witness_FlagsChangeOnlyAsStated :
    (∃ t, step { sample [.feed 0] with buf := List.replicate 256 0#8 } = .next t ∧ t.ovf = true) ∧
    (∃ t, step { sample [.reset] with ovf := true } = .next t ∧ t.ovf = false) ∧
    (∃ t, step { waiting with idle := 2, ops := [.tick] } = .next t ∧ t.tmo = true) ∧
    (∃ t, step { sample [.poll] with tmo := true } = .next t ∧ t.tmo = false) :=
  ⟨next_of_shown (f := State.ovf) (by decide +kernel), next_of_shown (f := State.ovf) (by decide +kernel),
    next_of_shown (f := State.tmo) (by decide +kernel), next_of_shown (f := State.tmo) (by decide +kernel)⟩

/-- A poll that ends in each of the five outcomes, for `PollReportsInOrderOfPriority`. -/
theorem witness_PollReportsInOrderOfPriority :
    (∃ t, step { sample [.poll] with tmo := true } = .next t ∧ t.result = .frameTimeout) ∧
    (∃ t, step (sample [.poll]) = .next t ∧ t.result = .noFullPackage) ∧
    (∃ t, step (polling deviceOne [0x05, 0x03, 0x00, 0x0A, 0x00, 0x01, 0x00, 0x00]) = .next t ∧
      t.result = .noSlaveMatch) ∧
    (∃ t, step (polling deviceOne [0x01, 0x03, 0x00, 0x0A, 0x00, 0x01, 0xA5, 0x08]) = .next t ∧
      t.result = .incorrectCrc) ∧
    (∃ t, step (polling deviceOne [0x01, 0x03, 0x00, 0x0A, 0x00, 0x01, 0xA4, 0x08]) = .next t ∧
      t.result = .packageOk) :=
  ⟨next_of_shown (f := State.result) (by decide +kernel),
    next_of_shown (f := State.result) (by decide +kernel),
    next_of_shown (f := State.result) (by decide +kernel),
    next_of_shown (f := State.result) (by decide +kernel),
    next_of_shown (f := State.result) (by decide +kernel)⟩

/-- Configurations at the edge of each precondition, and one that meets all four. -/
theorem witness_IllFormedConfigurationIsRefused :
    (State.resetWith { sampleConfig with tSilence := 0 }).config.tSilence = 0 ∧
    (State.resetWith { sampleConfig with bufCap := .bytes 255 }).config.bufCap = .bytes 255 ∧ 255 < 256 ∧
    (let d : Device := ⟨1#8, [fixed 3#16 .coil 1#16, fixed 3#16 .holding 1#16]⟩
     d.registers[0]? = some (fixed 3#16 .coil 1#16) ∧ d.registers[1]? = some (fixed 3#16 .holding 1#16) ∧
       (fixed 3#16 .holding 1#16).location.toNat ≤ (fixed 3#16 .coil 1#16).location.toNat ∧
       (withDevices [d]).wf = false) ∧
    (let c : Descriptor := ⟨0#16, 1, .coil, .random, 2#16, 1#16⟩
     c.valueMode = .random ∧ c.max.toNat < c.min.toNat ∧ (withDevices [⟨1#8, [c]⟩]).wf = false) ∧
    (∀ d ∈ sampleConfig.devices, d.registers.Pairwise fun a b => a.location.toNat < b.location.toNat) ∧
    (∀ d ∈ sampleConfig.devices, ∀ c ∈ d.registers, c.valueMode = .random →
      c.min.toNat ≤ c.max.toNat) ∧
    1 ≤ sampleConfig.tSilence ∧ sampleConfig.bufCap = .bytes 256 := by decide

theorem witness_EnvironmentStaysFreePastItsList :
    State.reset.config.wf = true ∧ State.reset.ops = [] ∧
    (let s := { waiting with turns := 7 }
     s.config.wf = true ∧ s.ops = []) := by decide

theorem witness_EverySequenceOfOperationsHasItsRun : waiting.Inv ∧ State.reset.Inv :=
  ⟨by decide, by decide⟩

/-- For `ResetHasTheInvariant`, `StepKeepsTheInvariant` and `NothingIsFatal`. -/
theorem witness_StepKeepsTheInvariant :
    sampleConfig.wf = true ∧ { waiting with ops := [.poll] }.Inv ∧
    ∃ t, step { waiting with ops := [.poll] } = .next t ∧ t.result = .noFullPackage :=
  ⟨sample_wf, by decide, next_of_shown (f := State.result) (by decide +kernel)⟩

end Sys2Proof.Machine.Tests
end

/-! The Checksum Engine is the algorithm of 40_crc_engine.md R101. -/

namespace Sys2Proof.Machine

/-- R101 tests bit 0 by masking, the model by reading the bit. -/
theorem and_one_eq_one_iff_getLsbD_zero (c : Word) : c &&& 1#16 = 1#16 ↔ c.getLsbD 0 = true := by
  rw [BitVec.and_one_eq_setWidth_ofBool_getLsbD]
  cases c.getLsbD 0 <;> decide

/-- One shift step as R101 writes it. -/
theorem crcShift_eq_mask (c : Word) :
    crcShift c = (c >>> 1) ^^^ (if c &&& 1#16 = 1#16 then 0xA001#16 else 0x0000#16) := by
  simp only [crcShift, crcPoly, and_one_eq_one_iff_getLsbD_zero]

/-- The register after a byte: eight shift steps from the register XORed with the byte. -/
theorem crcUpdate_eq_eight_shifts (c : Word) (b : Byte) :
    crcUpdate c b = crcShift (crcShift (crcShift (crcShift (crcShift (crcShift (crcShift (crcShift
      (c ^^^ b.setWidth 16)))))))) := rfl

/-- Settles O7: the engine streams, one `update` is eight shift steps, and each is R101's. -/
theorem crcFollowsTheAlgorithm : Obligations.CrcFollowsTheAlgorithm := by
  refine ⟨crc16_nil, fun bs b => ?_⟩
  intro shift
  have hshift : crcShift = shift := funext crcShift_eq_mask
  rw [crc16_concat, crcUpdate_eq_eight_shifts, hshift]

end Sys2Proof.Machine

/-! The Dispatcher's address match (42_dispatcher.md R134, R135): what an instruction does in each of its three
outcomes, and that of the configuration it reads only the device found and `EXT_READ_CONST`. -/

namespace Sys2Proof.Machine

/-! ## The address match -/

/-- The model's scan of the table and 42_dispatcher.md R134's first device are one notion. -/
theorem selected_iff_findDevice (c : Config) (a : Byte) (d : Device) :
    Selected c a d ↔ findDevice c.devices a = some d := by
  simp only [Selected, findDevice, List.find?_eq_some_iff_append]
  constructor
  · rintro ⟨before, after, htable, hbefore, haddress⟩
    exact ⟨by simpa using haddress, before, after, htable, by simpa using hbefore⟩
  · rintro ⟨haddress, before, after, htable, hbefore⟩
    exact ⟨before, after, htable, by simpa using hbefore, by simpa using haddress⟩

theorem findDevice_singleton {d : Device} {a : Byte} (h : d.address = a) :
    findDevice [d] a = some d := by
  simp [findDevice, h]

/-- One device of a well-formed table makes a well-formed table. -/
theorem wf_singleDevice {c : Config} {d : Device} (hw : c.wf = true) (hd : d ∈ c.devices) :
    { c with devices := [d] }.wf = true := by
  simp only [Config.wf, Bool.and_eq_true, List.all_eq_true] at hw ⊢
  obtain ⟨⟨hdevices, htime⟩, hcap⟩ := hw
  exact ⟨⟨by simpa using hdevices d hd, htime⟩, hcap⟩

/-! ## The three outcomes of an instruction -/

/-- No device has the address (42_dispatcher.md R135). -/
theorem exec_of_unmatched {i : Instr} {s : State} (hw : s.config.wf = true)
    (hd : findDevice s.config.devices i.address = none) :
    exec i s = .next (s.conclude .noSlaveMatch []) := by
  rw [exec_eq_dispatch, dispatch_of_wf _ _ _ hw, encode_getD_zero, hd]

/-- A device is found and the checksum is wrong (42_dispatcher.md R136). -/
theorem exec_of_corrupted {i : Instr} {s : State} {d : Device} (hw : s.config.wf = true)
    (hd : findDevice s.config.devices i.address = some d) (hc : checksumValid (encode i) = false) :
    exec i s = .next (s.leaveCrc.conclude .incorrectCrc []) := by
  rw [exec_eq_dispatch, dispatch_of_wf _ _ _ hw, encode_getD_zero, hd]
  simp [hc]

/-- A device is found and the checksum is right: the device answers (42_dispatcher.md R137, R139). -/
theorem exec_of_answered {i : Instr} {s : State} {d : Device} (hw : s.config.wf = true)
    (hd : findDevice s.config.devices i.address = some d) (hc : checksumValid (encode i) = true) :
    exec i s = .next ((respondOf i d s.leaveCrc).2.conclude .packageOk
      (finishReply i.functionCode (respondOf i d s.leaveCrc).1)) := by
  rw [exec_eq_dispatch, dispatch_answers _ _ _ d hw (by rwa [encode_getD_zero]) hc, encode_getD_one]

/-! ## Changing the configuration under an instruction -/

/-- The state under another configuration. -/
def State.withConfig (c : Config) (s : State) : State := { s with config := c }

@[simp] theorem State.withConfig_config (c : Config) (s : State) : (s.withConfig c).config = c := rfl

theorem State.withConfig_leaveCrc (c : Config) (s : State) :
    (s.withConfig c).leaveCrc = s.leaveCrc.withConfig c := rfl

theorem State.withConfig_conclude (c : Config) (s : State) (r : ResultCode) (p : List Byte) :
    (s.withConfig c).conclude r p = (s.conclude r p).withConfig c := rfl

section
variable {c : Config} {s : State}

/-- Value resolution reads of the configuration `EXT_READ_CONST` alone (43_register_store.md R160 to R163). -/
theorem resolve_withConfig (hx : c.extReadConst = s.config.extReadConst) (d : Descriptor) :
    resolve d (s.withConfig c) = (resolve d s).map id (State.withConfig c) := by
  unfold resolve
  cases d.valueMode with
  | fixed => rfl
  | random => rfl
  | externalRead => simp [hx]

theorem resolveAll_withConfig (hx : c.extReadConst = s.config.extReadConst) (ds : List Descriptor) :
    resolveAll ds (s.withConfig c) = (resolveAll ds s).map id (State.withConfig c) := by
  induction ds generalizing s with
  | nil => rfl
  | cons d ds ih =>
    have hx' : c.extReadConst = (resolve d s).2.config.extReadConst := by rw [resolve_frame]; exact hx
    simp [resolveAll, resolve_withConfig hx, ih hx']

theorem readValues_withConfig (hx : c.extReadConst = s.config.extReadConst) (ds : List Descriptor)
    (k : Kind) (start n : Nat) :
    readValues ds k start n (s.withConfig c) =
      (readValues ds k start n s).map id (State.withConfig c) := by
  unfold readValues
  cases matchSpan ds k start n with
  | error e => rfl
  | ok span => simp [resolveAll_withConfig hx]

theorem readBits_withConfig (hx : c.extReadConst = s.config.extReadConst) (a f : Byte) (k : Kind)
    (st n : Word) (d : Device) :
    readBits a f k st n d (s.withConfig c) =
      (readBits a f k st n d s).map id (State.withConfig c) := by
  unfold readBits
  rw [readValues_withConfig hx]
  rcases readValues d.registers k st.toNat n.toNat s with ⟨⟨⟩ | v, s'⟩ <;> rfl

theorem readRegs_withConfig (hx : c.extReadConst = s.config.extReadConst) (a f : Byte) (k : Kind)
    (st n : Word) (d : Device) :
    readRegs a f k st n d (s.withConfig c) =
      (readRegs a f k st n d s).map id (State.withConfig c) := by
  unfold readRegs
  rw [readValues_withConfig hx]
  rcases readValues d.registers k st.toNat n.toNat s with ⟨⟨⟩ | v, s'⟩ <;> rfl

/-- The Device's part of an instruction reads of the configuration `EXT_READ_CONST` alone. -/
theorem respondOf_withConfig (hx : c.extReadConst = s.config.extReadConst) (i : Instr) (d : Device) :
    respondOf i d (s.withConfig c) = (respondOf i d s).map id (State.withConfig c) := by
  cases i
  case rdcoil => exact readBits_withConfig hx ..
  case rddisc => exact readBits_withConfig hx ..
  case rdhold => exact readRegs_withConfig hx ..
  case rdinp => exact readRegs_withConfig hx ..
  all_goals rfl

/-- Under a well-formed configuration in which the same device answers and `EXT_READ_CONST` is the same, an
instruction does the same. -/
theorem exec_withConfig {i : Instr} {t : State} {d : Device} (hw : c.wf = true)
    (hx : c.extReadConst = s.config.extReadConst)
    (hs : findDevice s.config.devices i.address = some d)
    (hc : findDevice c.devices i.address = some d) (h : exec i s = .next t) :
    exec i (s.withConfig c) = .next (t.withConfig c) := by
  obtain ⟨-, ⟨hnone, -⟩ | ⟨-, -, hbad, rfl⟩ | ⟨e, he, hgood, rfl⟩⟩ := exec_cases h
  · simp [hs] at hnone
  · rw [exec_of_corrupted hw hc hbad, State.withConfig_leaveCrc, State.withConfig_conclude]
  · obtain rfl : d = e := by simpa [hs] using he
    rw [exec_of_answered hw hc hgood, State.withConfig_leaveCrc,
      respondOf_withConfig (s := s.leaveCrc) hx, ← State.withConfig_conclude]
    rfl

end

/-! ## The obligations -/

/-- Settles O26: the table with `d` alone is well-formed and `d` is the device found in it, so only the table
differs. -/
theorem firstDeviceWithTheAddressAnswers : Obligations.FirstDeviceWithTheAddressAnswers := by
  intro i s t d hsel h
  have hfound := (selected_iff_findDevice _ _ _).1 hsel
  obtain ⟨hmem, haddress⟩ := findDevice_some _ _ _ hfound
  have hw : s.config.wf = true := (exec_cases h).1
  exact exec_withConfig (wf_singleDevice hw hmem) rfl hfound (findDevice_singleton haddress) h

/-- Settles O24: the scan finds no device, before the checksum is looked at. -/
theorem unknownAddressIsIgnored : Obligations.UnknownAddressIsIgnored := by
  intro i s hw hother
  exact exec_of_unmatched hw ((findDevice_none_iff _ _).2 hother)

end Sys2Proof.Machine

/-! The Register Store at the end of its address space (43_register_store.md R152) and on `Fixed` descriptors
(R161). In ascending descriptors the read of a configured location alone succeeds; the bound is the one check
that does not look at the descriptors. -/

namespace Sys2Proof.Machine

/-! ## The matcher's checks -/

/-- Check 1 comes first and looks at no descriptor (43_register_store.md R152). -/
theorem matchSpan_of_bound {s n : Nat} (h : 65535 ≤ s + n) (ds : List Descriptor) (k : Kind) :
    matchSpan ds k s n = .error .noSuchRegistry := if_pos h

/-- Where the four checks pass and a location is requested, the walk answers (43_register_store.md R156,
R159). -/
theorem matchSpan_eq_walkSpan {ds : List Descriptor} {s n : Nat} (hne : ds ≠ []) (hbound : s + n < 65535)
    (hlast : s + n ≤ (ds.getLast hne).location.toNat + 1) (hfirst : (ds.head hne).location.toNat ≤ s)
    (hn : n ≠ 0) (k : Kind) :
    matchSpan ds k s n = walkSpan k s n (ds.dropWhile fun d => d.location.toNat != s) := by
  simp only [matchSpan, List.head?_eq_some_head hne, List.getLast?_eq_some_getLast hne]
  rw [if_neg (by omega), if_neg (by omega), if_neg (by omega), if_neg hn]

/-- The walk over one location answers with the first descriptor if it stands there and has the kind
(43_register_store.md R157). -/
theorem walkSpan_one {k : Kind} {loc : Nat} {d : Descriptor} (hloc : d.location.toNat = loc)
    (hkind : d.kind = k) (ds : List Descriptor) : walkSpan k loc 1 (d :: ds) = .ok [d] := by
  simp [walkSpan, hloc, hkind]

/-! ## Ascending descriptors -/

section
variable {d : Device} {c : Descriptor}

theorem Device.ascending_iff :
    d.ascending = true ↔ d.registers.Pairwise fun a b => a.location.toNat < b.location.toNat :=
  decide_eq_true_iff

/-- No descriptor stands before the first. -/
theorem Device.head_location_le (ha : d.ascending = true) (hc : c ∈ d.registers) :
    (d.registers.head (List.ne_nil_of_mem hc)).location.toNat ≤ c.location.toNat :=
  ((Device.ascending_iff.1 ha).imp Nat.le_of_lt).rel_head_of_rel_head_head hc (Nat.le_refl _)

/-- No descriptor stands after the last. -/
theorem Device.location_le_getLast (ha : d.ascending = true) (hc : c ∈ d.registers) :
    c.location.toNat ≤ (d.registers.getLast (List.ne_nil_of_mem hc)).location.toNat :=
  ((Device.ascending_iff.1 ha).imp Nat.le_of_lt).rel_getLast_of_rel_getLast_getLast hc (Nat.le_refl _)

/-- The walk from a configured location starts at its descriptor (43_register_store.md R156): each one before
it has a smaller location. -/
theorem Device.dropWhile_to_location (ha : d.ascending = true) (hc : c ∈ d.registers) :
    ∃ after, (d.registers.dropWhile fun e => e.location.toNat != c.location.toNat) = c :: after := by
  obtain ⟨before, after, hsplit⟩ := List.append_of_mem hc
  have hpair := Device.ascending_iff.1 ha
  rw [hsplit, List.pairwise_append] at hpair
  obtain ⟨-, -, hbefore⟩ := hpair
  have hskip : ∀ e ∈ before, (e.location.toNat != c.location.toNat) = true := fun e he =>
    bne_iff_ne.2 (Nat.ne_of_lt (hbefore e he c List.mem_cons_self))
  exact ⟨after, by rw [hsplit, List.dropWhile_append_of_pos hskip, List.dropWhile_cons_of_neg (by simp)]⟩

/-- Below the bound, the read of a configured location alone gives its descriptor. -/
theorem matchSpan_location_alone (ha : d.ascending = true) (hc : c ∈ d.registers)
    (hbound : c.location.toNat + 1 < 65535) :
    matchSpan d.registers c.kind c.location.toNat 1 = .ok [c] := by
  obtain ⟨after, hafter⟩ := Device.dropWhile_to_location ha hc
  have hlast := Device.location_le_getLast ha hc
  rw [matchSpan_eq_walkSpan (List.ne_nil_of_mem hc) hbound (by omega) (Device.head_location_le ha hc)
    Nat.one_ne_zero, hafter, walkSpan_one rfl rfl]

end

/-! ## Resolution -/

/-- A `Fixed` descriptor resolves to `max` with no draw (43_register_store.md R161). -/
theorem resolve_fixed {d : Descriptor} (h : d.valueMode = .fixed) (s : State) :
    resolve d s = (d.max, s) := by
  simp [resolve, h]

/-! ## The obligations -/

/-- Settles O32: a start above 65533 with a location requested reaches the bound; 65533 with one location does
not. -/
theorem addressSpaceEndIsUnreadable : Obligations.AddressSpaceEndIsUnreadable := by
  refine ⟨fun ds k s n h => matchSpan_of_bound h ds k,
    fun ds k s n hn hs => matchSpan_of_bound (by omega) ds k, fun d c ha hc hloc => ?_⟩
  have hstart : c.location.toNat = 65533 := by rw [hloc]; rfl
  have hread := matchSpan_location_alone ha hc (by omega)
  rwa [hstart] at hread

/-- Settles O33. -/
theorem fixedResolvesToMax : Obligations.FixedResolvesToMax := fun _ s h => resolve_fixed h s

end Sys2Proof.Machine

/-! Function codes 5 and 6 (45_write_single.md R190): what an instruction does when `Respond` is the echo and
the Dispatcher appends no checksum. -/

namespace Sys2Proof.Machine

/-- A frame that carries its checksum is one that passes the checksum test (40_crc_engine.md R104). -/
theorem intact_iff_checksumValid (i : Instr) : Intact i ↔ checksumValid (encode i) = true :=
  (checksumValid_iff _ (Nat.le_trans (by decide) (encode_length_ge i))).symm

/-- The one exception to the appended checksum (42_dispatcher.md R137). -/
theorem finishReply_of_not_appendsChecksum {f : Byte} (h : appendsChecksum f = false) (r : List Byte) :
    finishReply f r = r := by
  simp [finishReply, h]

/-- Leaving the checksum engine and concluding writes the reply and the engine's fields alone. -/
theorem onlyReplyChanged_leaveCrc_conclude (s : State) (r : ResultCode) (p : List Byte) :
    OnlyReplyChanged s (s.leaveCrc.conclude r p) := rfl

/-- An intact instruction whose `Respond` is the echo, and whose function code appends no checksum, replies with
its own frame. -/
theorem exec_of_echoed {i : Instr} {s : State} {d : Device} (hw : s.config.wf = true)
    (hsel : Selected s.config i.address d) (hintact : Intact i) (hecho : respondOf i = echo (encode i))
    (hcode : appendsChecksum i.functionCode = false) :
    exec i s = .next (s.leaveCrc.conclude .packageOk (encode i)) := by
  have hfound := (selected_iff_findDevice _ _ _).1 hsel
  have hvalid := (intact_iff_checksumValid i).1 hintact
  rw [exec_of_answered hw hfound hvalid, finishReply_of_not_appendsChecksum hcode, hecho, echo]

/-- Settles O37: both writes respond with the echo, and neither function code appends a checksum. -/
theorem singleWritesAreEchoed : Obligations.SingleWritesAreEchoed := by
  intro s a location value lo hi d hw hsel
  constructor
  · intro hintact
    exact ⟨_, exec_of_echoed hw hsel hintact rfl rfl, onlyReplyChanged_leaveCrc_conclude .., rfl, rfl⟩
  · intro hintact
    exact ⟨_, exec_of_echoed hw hsel hintact rfl rfl, onlyReplyChanged_leaveCrc_conclude .., rfl, rfl⟩

end Sys2Proof.Machine

/-! What a well-formed configuration grants (70_reset_and_hazards.md R252, 00_scope.md R6), and that an
ill-formed one is refused (log 5). -/

namespace Sys2Proof.Machine

theorem Config.wf_iff (c : Config) : c.wf = true ↔
    (∀ d ∈ c.devices, d.ascending = true ∧ ∀ r ∈ d.registers, r.rangeOk = true) ∧
      1 ≤ c.tSilence ∧ c.bufCap.legal = true := by
  simp only [Config.wf, Bool.and_eq_true, List.all_eq_true, decide_eq_true_eq, and_assoc]

section
variable {c : Config} (hw : c.wf = true)
include hw

theorem Config.wf_ascending {d : Device} (hd : d ∈ c.devices) : d.ascending = true := by
  obtain ⟨hdevices, -⟩ := (Config.wf_iff c).1 hw
  exact (hdevices d hd).1

theorem Config.wf_rangeOk {d : Device} (hd : d ∈ c.devices) {r : Descriptor} (hr : r ∈ d.registers) :
    r.rangeOk = true := by
  obtain ⟨hdevices, -⟩ := (Config.wf_iff c).1 hw
  exact (hdevices d hd).2 r hr

theorem Config.one_le_tSilence : 1 ≤ c.tSilence := by
  obtain ⟨-, htime, -⟩ := (Config.wf_iff c).1 hw
  exact htime

/-- Every legal capacity holds the longest tail of an extended frame, 256 bytes. -/
theorem Config.wf_admits {n : Nat} (hn : n ≤ 256) : Capacity.admits c.bufCap n = true := by
  obtain ⟨-, -, hlegal⟩ := (Config.wf_iff c).1 hw
  cases hcap : c.bufCap with
  | unbounded => rfl
  | bytes k =>
    simp only [hcap, Capacity.legal, decide_eq_true_eq] at hlegal
    simp only [Capacity.admits, decide_eq_true_eq]
    omega

end

/-! ## The preconditions one by one -/

theorem Device.ascending_iff_getElem? (d : Device) : d.ascending = true ↔
    ∀ (i j : Nat) (a b : Descriptor), i < j → d.registers[i]? = some a → d.registers[j]? = some b →
      a.location.toNat < b.location.toNat := by
  rw [Device.ascending_iff, List.pairwise_iff_getElem]
  constructor
  · intro h i j a b hij ha hb
    obtain ⟨hi, rfl⟩ := List.getElem?_eq_some_iff.1 ha
    obtain ⟨hj, rfl⟩ := List.getElem?_eq_some_iff.1 hb
    exact h i j hi hj hij
  · intro h i j hi hj hij
    exact h i j _ _ hij (List.getElem?_eq_getElem hi) (List.getElem?_eq_getElem hj)

theorem Descriptor.rangeOk_iff (r : Descriptor) :
    r.rangeOk = true ↔ (r.valueMode = .random → r.min.toNat ≤ r.max.toNat) := by
  rw [Descriptor.rangeOk, Bool.or_eq_true, bne_iff_ne, decide_eq_true_eq, imp_iff_not_or]

theorem Capacity.legal_iff (c : Capacity) : c.legal = true ↔ ∀ n, c = .bytes n → 256 ≤ n := by
  cases c <;> simp [Capacity.legal]

/-- Well-formedness is the four preconditions of 70_reset_and_hazards.md R252 that the types do not grant. -/
theorem Config.wf_iff_preconditions (c : Config) : c.wf = true ↔
    (∀ d ∈ c.devices, ∀ (i j : Nat) (a b : Descriptor), i < j → d.registers[i]? = some a →
      d.registers[j]? = some b → a.location.toNat < b.location.toNat) ∧
    (∀ d ∈ c.devices, ∀ r ∈ d.registers, r.valueMode = .random → r.min.toNat ≤ r.max.toNat) ∧
    1 ≤ c.tSilence ∧ ∀ n, c.bufCap = .bytes n → 256 ≤ n := by
  simp only [Config.wf_iff, Capacity.legal_iff, Device.ascending_iff_getElem?, Descriptor.rangeOk_iff,
    forall_and, and_assoc]

/-- Under an ill-formed configuration step and instructions refuse (log 5). -/
theorem refusesConfiguration_of_not_wf {s : State} (hw : ¬ s.config.wf = true) : s.RefusesConfiguration := by
  refine ⟨?_, fun i => ?_⟩
  · rw [step, performNext, if_neg hw]
  · rw [exec_eq_dispatch, dispatch, if_neg hw]

/-- Settles O46: each broken precondition breaks well-formedness, and the four make it. -/
theorem illFormedConfigurationIsRefused : Obligations.IllFormedConfigurationIsRefused := by
  intro s
  refine ⟨fun hw => refusesConfiguration_of_not_wf (by simp [hw]), ?_, ?_, ?_, ?_, ?_⟩
  · intro d hd i j a b hij ha hb hle
    refine refusesConfiguration_of_not_wf fun hw => ?_
    obtain ⟨hasc, -, -, -⟩ := (Config.wf_iff_preconditions _).1 hw
    exact absurd (hasc d hd i j a b hij ha hb) (Nat.not_lt.2 hle)
  · intro d hd c hc hm hlt
    refine refusesConfiguration_of_not_wf fun hw => ?_
    obtain ⟨-, hrange, -, -⟩ := (Config.wf_iff_preconditions _).1 hw
    exact absurd (hrange d hd c hc hm) (Nat.not_le.2 hlt)
  · intro hzero
    refine refusesConfiguration_of_not_wf fun hw => ?_
    exact absurd (Config.one_le_tSilence hw) (by omega)
  · intro n hcap hn
    refine refusesConfiguration_of_not_wf fun hw => ?_
    obtain ⟨-, -, -, hlegal⟩ := (Config.wf_iff_preconditions _).1 hw
    exact absurd (hlegal n hcap) (Nat.not_le.2 hn)
  · intro hasc hrange htime hlegal
    have hw := (Config.wf_iff_preconditions _).2 ⟨hasc, hrange, htime, hlegal⟩
    exact ⟨hw, fun i => exec_next_of_wf i s hw⟩

end Sys2Proof.Machine

/-! The decoder and the encoder are inverse to each other (30_encoding.md sections 1, 2, 4), and the opcode
table picks the row of the instruction the decoder reads. -/

namespace Sys2Proof

/-! ## Decoding an encoding -/

theorem decode_encodeBase {f : Byte} (hf : isExtendedCode f = false) (a lo hi : Byte) (field value : Word)
    (rest : List Byte) :
    decode (encodeBase a f field value lo hi ++ rest) =
      .ok (decodeBase a f (hi8 field) (lo8 field) (hi8 value) (lo8 value) lo hi, rest) :=
  decode_base _ _ _ _ _ _ _ _ _ hf

theorem decode_encodeExtended {f : Byte} (hf : isExtendedCode f = true) {payload : List Byte}
    (hp : payloadFits payload = true) (a lo hi : Byte) (start quantity : Word) (rest : List Byte) :
    decode (encodeExtended a f start quantity payload lo hi ++ rest) =
      .ok (decodeExtended a f (hi8 start) (lo8 start) (hi8 quantity) (lo8 quantity) payload lo hi, rest) :=
  decode_extended _ _ _ _ _ _ _ _ _ _ _ hf (payload_count payload hp)

/-- A code without a row of its own is read back as `UNSUP` (30_encoding.md R80). -/
theorem decodeBase_unsupported {f : Byte} (hf : isUnsupportedCode f = true) (a p0 p1 p2 p3 lo hi : Byte) :
    decodeBase a f p0 p1 p2 p3 lo hi = .unsup a f p0 p1 p2 p3 lo hi := by
  obtain ⟨h1, h2, h3, h4, h5, h6, -, -⟩ := (isUnsupportedCode_iff f).1 hf
  simp [decodeBase, h1, h2, h3, h4, h5, h6]

theorem isExtendedCode_of_unsupported {f : Byte} (hf : isUnsupportedCode f = true) :
    isExtendedCode f = false := by
  obtain ⟨-, -, -, -, -, -, h15, h16⟩ := (isUnsupportedCode_iff f).1 hf
  simp [isExtendedCode, h15, h16]

/-- Settles O1: each constructor's format is read back, and its fields join to the words they
were cut from. -/
theorem decodeOfEncodeIsTheInstruction : Obligations.DecodeOfEncodeIsTheInstruction := by
  intro i rest hi
  cases i
  case wrmcoil =>
    simp [encode, decode_encodeExtended (f := 15#8) rfl hi, decodeExtended, be16_hi8_lo8]
  case wrmreg =>
    simp [encode, decode_encodeExtended (f := 16#8) rfl hi, decodeExtended, be16_hi8_lo8]
  case unsup a f p0 p1 p2 p3 lo hi' =>
    rw [encode, ← decodeBase_unsupported hi]
    exact decode_base _ _ _ _ _ _ _ _ _ (isExtendedCode_of_unsupported hi)
  all_goals simp [encode, decode_encodeBase, isExtendedCode, decodeBase, be16_hi8_lo8]

/-! ## Encoding what was decoded -/

/-- Everything the decoder can accept: a frame of one of the two formats, and the bytes after it. -/
theorem decode_cases {bs rest : List Byte} {i : Instr} (h : decode bs = .ok (i, rest)) :
    (∃ a f b2 b3 b4 b5 lo hi, isExtendedCode f = false ∧ bs = [a, f, b2, b3, b4, b5, lo, hi] ++ rest ∧
      i = decodeBase a f b2 b3 b4 b5 lo hi) ∨
    (∃ a f b2 b3 b4 b5 n payload lo hi, isExtendedCode f = true ∧ n.toNat = payload.length ∧
      bs = [a, f, b2, b3, b4, b5, n] ++ payload ++ [lo, hi] ++ rest ∧
      i = decodeExtended a f b2 b3 b4 b5 payload lo hi) := by
  unfold decode at h
  split at h
  case h_2 => simp at h
  case h_1 a f b2 b3 b4 b5 b6 b7 tail =>
    split at h
    case isFalse hf =>
      obtain ⟨rfl, rfl⟩ := by simpa using h
      exact .inl ⟨a, f, b2, b3, b4, b5, b6, b7, by simpa using hf, rfl, rfl⟩
    case isTrue hf =>
      split at h
      case h_2 => simp at h
      case h_1 lo hi rest' hdrop =>
        obtain ⟨rfl, rfl⟩ := by simpa using h
        have hsplit := List.take_append_drop b6.toNat (b7 :: tail)
        have hlen : b6.toNat ≤ (b7 :: tail).length := by
          have := congrArg List.length hdrop
          simp at this ⊢
          omega
        refine .inr ⟨a, f, b2, b3, b4, b5, b6, (b7 :: tail).take b6.toNat, lo, hi, hf, ?_, ?_, rfl⟩
        · rw [List.length_take, Nat.min_eq_left hlen]
        · rw [hdrop] at hsplit
          simpa using hsplit.symm

theorem encode_decodeBase (a f b2 b3 b4 b5 lo hi : Byte) :
    encode (decodeBase a f b2 b3 b4 b5 lo hi) = [a, f, b2, b3, b4, b5, lo, hi] := by
  unfold decodeBase
  split_ifs <;> simp [encode, encodeBase, hi8_be16, lo8_be16, *]

theorem decodeBase_wellFormed {f : Byte} (hf : isExtendedCode f = false) (a b2 b3 b4 b5 lo hi : Byte) :
    (decodeBase a f b2 b3 b4 b5 lo hi).wellFormed = true := by
  unfold decodeBase
  split_ifs
  case neg h1 h2 h3 h4 h5 h6 =>
    have hx : ¬ (f = 15#8 ∨ f = 16#8) := by rw [← isExtendedCode_iff]; simp [hf]
    exact (isUnsupportedCode_iff f).2 ⟨h1, h2, h3, h4, h5, h6, by tauto, by tauto⟩
  all_goals rfl

theorem encode_decodeExtended {f n : Byte} {payload : List Byte} (hf : isExtendedCode f = true)
    (hn : n.toNat = payload.length) (a b2 b3 b4 b5 lo hi : Byte) :
    encode (decodeExtended a f b2 b3 b4 b5 payload lo hi) =
      [a, f, b2, b3, b4, b5, n] ++ payload ++ [lo, hi] := by
  have hcount : BitVec.ofNat 8 payload.length = n := by rw [← hn, BitVec.ofNat_toNat, BitVec.setWidth_eq]
  rcases (isExtendedCode_iff f).1 hf with rfl | rfl <;>
    simp [decodeExtended, encode, encodeExtended, hi8_be16, lo8_be16, hcount]

theorem decodeExtended_wellFormed {n : Byte} {payload : List Byte} (hn : n.toNat = payload.length)
    (a f b2 b3 b4 b5 lo hi : Byte) :
    (decodeExtended a f b2 b3 b4 b5 payload lo hi).wellFormed = true := by
  have hfits : payloadFits payload = true := by
    have := n.isLt
    simp only [payloadFits, decide_eq_true_eq]
    omega
  unfold decodeExtended
  split_ifs <;> exact hfits

/-- Settles O2: in either format the fields are cut back into the bytes they were joined from. -/
theorem encodeOfDecodeIsTheBytes : Obligations.EncodeOfDecodeIsTheBytes := by
  intro bs rest i h
  rcases decode_cases h with ⟨a, f, b2, b3, b4, b5, lo, hi, hf, rfl, rfl⟩ |
    ⟨a, f, b2, b3, b4, b5, n, payload, lo, hi, hf, hn, rfl, rfl⟩
  · exact ⟨decodeBase_wellFormed hf .., by rw [encode_decodeBase]⟩
  · exact ⟨decodeExtended_wellFormed hn .., by rw [encode_decodeExtended hf hn]⟩

/-! ## Which byte sequences are accepted -/

/-- The length of a well-formed instruction's frame, by its own bytes 1 and 6 (30_encoding.md R73). -/
theorem encode_length {i : Instr} (hi : i.wellFormed = true) :
    (encode i).length =
      if isExtendedCode ((encode i).getD 1 0#8) then 9 + ((encode i).getD 6 0#8).toNat else 8 := by
  obtain ⟨-, hcode, hlen⟩ := Laws.FrameShape.of_lengths i hi
  rw [hcode, hlen]

/-- The bytes of a base candidate are the frame's own, whatever follows the frame. -/
theorem encode_append_getD (i : Instr) (rest : List Byte) {j : Nat} (hj : j < 8) :
    (encode i ++ rest).getD j 0#8 = (encode i).getD j 0#8 :=
  List.getD_append _ _ _ _ (Nat.lt_of_lt_of_le hj (encode_length_ge i))

/-- Eight bytes, and whatever follows them, spelt out. -/
theorem exists_base_cons (bs : List Byte) (h : 8 ≤ bs.length) : ∃ a f b2 b3 b4 b5 b6 b7 rest,
    bs = a :: f :: b2 :: b3 :: b4 :: b5 :: b6 :: b7 :: rest :=
  match bs, h with
  | a :: f :: b2 :: b3 :: b4 :: b5 :: b6 :: b7 :: rest, _ => ⟨a, f, b2, b3, b4, b5, b6, b7, rest, rfl⟩

/-- Two bytes, and whatever follows them, spelt out. -/
theorem exists_pair_cons (bs : List Byte) (h : 2 ≤ bs.length) : ∃ lo hi rest, bs = lo :: hi :: rest :=
  match bs, h with
  | lo :: hi :: rest, _ => ⟨lo, hi, rest, rfl⟩

/-- Eight bytes, and for function codes 15 and 16 the declared tail, are accepted. -/
theorem decode_whole {bs : List Byte} (hlen : 8 ≤ bs.length)
    (htail : bs.getD 1 0#8 = 15#8 ∨ bs.getD 1 0#8 = 16#8 → 9 + (bs.getD 6 0#8).toNat ≤ bs.length) :
    ∃ i rest, decode bs = .ok (i, rest) := by
  obtain ⟨a, f, b2, b3, b4, b5, n, b7, tail, rfl⟩ := exists_base_cons bs hlen
  cases hf : isExtendedCode f with
  | false => exact ⟨_, _, decode_base a f b2 b3 b4 b5 n b7 tail hf⟩
  | true =>
    have hn : 9 + n.toNat ≤ tail.length + 8 := by simpa using htail ((isExtendedCode_iff f).1 hf)
    obtain ⟨lo, hi, rest, hdrop⟩ := exists_pair_cons ((b7 :: tail).drop n.toNat)
      (by rw [List.length_drop, List.length_cons]; omega)
    exact ⟨decodeExtended a f b2 b3 b4 b5 ((b7 :: tail).take n.toNat) lo hi, rest, by simp [decode, hf, hdrop]⟩

/-- Settles O3: an accepted sequence begins with the encoding of what was read, whose length is known. -/
theorem decodeAcceptsExactlyWholeFrames : Obligations.DecodeAcceptsExactlyWholeFrames := by
  intro bs
  constructor
  · rintro ⟨⟨i, rest⟩, h⟩
    obtain ⟨hi, rfl⟩ := encodeOfDecodeIsTheBytes _ _ _ h
    have hge := encode_length_ge i
    have hlen := encode_length hi
    rw [encode_append_getD i rest (by decide), encode_append_getD i rest (by decide), List.length_append]
    refine ⟨by omega, fun hcode => ?_⟩
    rw [if_pos ((isExtendedCode_iff _).2 hcode)] at hlen
    omega
  · rintro ⟨hlen, htail⟩
    obtain ⟨i, rest, h⟩ := decode_whole hlen htail
    exact ⟨_, h⟩

/-- Settles O4. -/
theorem specFramesDecode : Obligations.SpecFramesDecode := by
  unfold Obligations.SpecFramesDecode
  decide

/-! ## The opcode table -/

/-- A row matches on the function code alone: `UNSUP` on any, another on its own. -/
def TableRow.matchesCode (r : TableRow) (f : Byte) : Bool :=
  r.mask == 0 || f == BitVec.ofNat 8 (r.pattern / 2 ^ 48)

/-- The mask of the eight function codes cuts byte 1 out of the base candidate (30_encoding.md R83). -/
theorem and_functionCodeMask (w : Nat) :
    w &&& 0x00FF000000000000 = w / 2 ^ 48 % 2 ^ 8 * 2 ^ 48 := by
  have hmask : (0x00FF000000000000 : Nat) = (2 ^ 8 - 1) <<< 48 := by decide
  apply Nat.eq_of_testBit_eq
  intro j
  rw [hmask, ← Nat.shiftLeft_eq, Nat.testBit_and, Nat.testBit_shiftLeft, Nat.testBit_shiftLeft,
    Nat.testBit_two_pow_sub_one, Nat.testBit_mod_two_pow, Nat.testBit_div_two_pow]
  by_cases hj : 48 ≤ j
  · simp [hj, Bool.and_comm]
  · simp [hj]

theorem row_matches_iff (w : Nat) : ∀ r ∈ tableRows,
    (w &&& r.mask == r.pattern) = r.matchesCode (BitVec.ofNat 8 (w / 2 ^ 48)) := by
  simp [tableRows, TableRow.matchesCode, and_functionCodeMask, ← BitVec.toNat_inj]
  omega

/-- The first row that matches a base candidate is that of the instruction with its function code. -/
theorem tableRowOf_name {i : Instr} {w : Nat} (hi : i.wellFormed = true)
    (hcode : BitVec.ofNat 8 (w / 2 ^ 48) = i.functionCode) :
    (tableRowOf w).map TableRow.name = some i.mnemonic := by
  rw [tableRowOf, List.find?_congr (row_matches_iff w), hcode]
  cases i
  case unsup =>
    obtain ⟨h1, h2, h3, h4, h5, h6, h15, h16⟩ := (isUnsupportedCode_iff _).1 hi
    simp [tableRows, TableRow.matchesCode, Instr.functionCode, Instr.mnemonic, h1, h2, h3, h4, h5, h6, h15, h16]
  all_goals rfl

theorem tableBytes_length (nbits w : Nat) : (tableBytes nbits w).length = 264 := by
  simp [tableBytes, maxFrameLen]

/-- The first eight bytes are the base candidate's, byte 0 in bits 63..56 (30_encoding.md R83). -/
theorem take_tableBytes {w : Nat} (hw : w < 2 ^ 64) :
    (tableBytes 64 w).take 8 = (List.range 8).map fun j => BitVec.ofNat 8 (w / 2 ^ (56 - 8 * j)) := by
  rw [tableBytes, Nat.mod_eq_of_lt hw]
  exact List.take_left' (by simp)

/-- Every table word is read, and its frame is made of the word's bytes: 264 bytes are enough for any. -/
theorem decode_tableBytes (w : Nat) : ∃ i rest, decodeTableWord 64 w = some i ∧ i.wellFormed = true ∧
    tableBytes 64 w = encode i ++ rest := by
  obtain ⟨i, rest, h⟩ := decode_whole (bs := tableBytes 64 w) (by rw [tableBytes_length]; decide)
    (fun _ => by rw [tableBytes_length]; have := ((tableBytes 64 w).getD 6 0#8).isLt; omega)
  obtain ⟨hi, hbytes⟩ := encodeOfDecodeIsTheBytes _ _ _ h
  exact ⟨i, rest, by simp [decodeTableWord, h], hi, hbytes.symm⟩

/-- Settles O5: byte 1 of the word is the function code of the instruction read, and it picks the row. -/
theorem tableWordSelectsItsRow : Obligations.TableWordSelectsItsRow := by
  intro w hw
  obtain ⟨i, rest, hread, hi, hbytes⟩ := decode_tableBytes w
  have htake : (encode i).take 8 = (tableBytes 64 w).take 8 := by
    rw [hbytes, List.take_append_of_le_length (encode_length_ge i)]
  rw [take_tableBytes hw] at htake
  have hcode : BitVec.ofNat 8 (w / 2 ^ 48) = i.functionCode := by
    obtain ⟨t, hframe, -⟩ := encode_eq_cons i
    rw [hframe] at htake
    simpa using (congrArg (fun l : List Byte => l.getD 1 0#8) htake).symm
  exact ⟨i, hread, tableRowOf_name hi hcode, htake⟩

end Sys2Proof

/-! Derived properties of the Checksum Engine (40_crc_engine.md R107): `update` loses nothing, and a frame
with its checksum leaves the register at 0. -/

namespace Sys2Proof.Machine

/-! ## One shift step and one update lose nothing -/

/-- Bit 15 of the polynomial is set and a shift brings in 0 there, so bit 15 tells the bit shifted out. -/
theorem crcShift_getLsbD_top (c : Word) : (crcShift c).getLsbD 15 = c.getLsbD 0 := by
  unfold crcShift crcPoly
  cases c.getLsbD 0 <;> simp

theorem crcShift_injective : Function.Injective crcShift := by
  intro a b h
  have hout : a.getLsbD 0 = b.getLsbD 0 := by rw [← crcShift_getLsbD_top, h, crcShift_getLsbD_top]
  have hrest : a >>> 1 = b >>> 1 := by
    unfold crcShift at h
    rw [hout] at h
    exact (BitVec.xor_left_inj _).1 h
  apply BitVec.eq_of_getLsbD_eq
  intro i hi
  cases i with
  | zero => exact hout
  | succ i =>
    have := congrArg (·.getLsbD i) hrest
    simpa [Nat.add_comm] using this

theorem repeat_crcShift_injective (n : Nat) : Function.Injective (Nat.repeat crcShift n) := by
  induction n with
  | zero => exact fun _ _ h => h
  | succ n ih => exact crcShift_injective.comp ih

/-- In the register, whatever the byte, `update` is one to one. -/
theorem crcUpdate_injective (b : Byte) : Function.Injective fun c => crcUpdate c b :=
  fun _ _ h => (BitVec.xor_left_inj _).1 (repeat_crcShift_injective 8 h)

/-- In the byte, whatever the register, `update` is one to one. -/
theorem crcUpdate_byte_injective (c : Word) : Function.Injective (crcUpdate c) := by
  intro a b h
  have hx := (BitVec.xor_right_inj c).1 (repeat_crcShift_injective 8 h)
  have := congrArg (BitVec.setWidth 8) hx
  simpa using this

/-- From different registers the same bytes lead to different registers. -/
theorem foldl_crcUpdate_injective (bs : List Byte) : Function.Injective (bs.foldl crcUpdate) := by
  induction bs with
  | nil => exact fun _ _ h => h
  | cons b bs ih => exact ih.comp (crcUpdate_injective b)

/-- Settles O9: one-to-one on a finite set is bijective; after the differing byte the registers differ for
good. -/
theorem crcSeesEveryOneByteChange : Obligations.CrcSeesEveryOneByteChange := by
  refine ⟨fun b => Finite.injective_iff_bijective.1 (crcUpdate_injective b), fun front back a b hab h => ?_⟩
  simp only [crc16, List.foldl_append, List.foldl_cons] at h
  exact hab (crcUpdate_byte_injective _ (foldl_crcUpdate_injective back h))

/-! ## The residue -/

/-- A shift step that shifts out a zero is a plain shift. -/
theorem crcShift_shiftLeft_succ (y : Byte) {k : Nat} (hk : k < 8) :
    crcShift (y.setWidth 16 <<< (k + 1)) = y.setWidth 16 <<< k := by
  have hout : (y.setWidth 16 <<< (k + 1)).getLsbD 0 = false := by simp
  rw [crcShift, hout, if_neg Bool.false_ne_true, BitVec.xor_zero]
  apply BitVec.eq_of_getLsbD_eq
  intro i hi
  have hindex : 1 + i - (k + 1) = i - k := by omega
  simp only [BitVec.getLsbD_ushiftRight, BitVec.getLsbD_shiftLeft, BitVec.getLsbD_setWidth, hindex]
  by_cases hbyte : i - k < 8
  · have hin : 1 + i < 16 := by omega
    have hlow : (1 + i < k + 1) = (i < k) := by simp only [eq_iff_iff]; omega
    simp only [hlow, hin, hi]
  · simp [BitVec.getLsbD_of_ge y (i - k) (by omega)]

/-- While zeros are shifted out, shift steps only shift. -/
theorem repeat_crcShift_shiftLeft (y : Byte) (n : Nat) {k : Nat} (hk : n + k ≤ 8) :
    Nat.repeat crcShift n (y.setWidth 16 <<< (n + k)) = y.setWidth 16 <<< k := by
  induction n generalizing k with
  | zero => rw [Nat.zero_add, Nat.repeat]
  | succ n ih =>
    rw [Nat.repeat, show n + 1 + k = n + (k + 1) by omega, ih (by omega), crcShift_shiftLeft_succ y (by omega)]

/-- When one more byte `x` leaves the register at a byte `y`. -/
theorem crcUpdate_eq_setWidth_iff (c : Word) (x y : Byte) :
    crcUpdate c x = y.setWidth 16 ↔ c ^^^ x.setWidth 16 = y.setWidth 16 <<< 8 := by
  have hshift : Nat.repeat crcShift 8 (y.setWidth 16 <<< 8) = y.setWidth 16 :=
    (repeat_crcShift_shiftLeft y 8 (k := 0) (by decide)).trans (BitVec.shiftLeft_zero _)
  rw [crcUpdate, ← hshift, (repeat_crcShift_injective 8).eq_iff, hshift]

theorem crcUpdate_eq_zero_iff (c : Word) (b : Byte) : crcUpdate c b = 0#16 ↔ c = b.setWidth 16 := by
  rw [← BitVec.xor_eq_zero_iff (x := c)]
  exact crcUpdate_eq_setWidth_iff c b 0#8

theorem be16_eq_append (hi lo : Byte) : be16 hi lo = hi ++ lo := by
  apply BitVec.eq_of_toNat_eq
  rw [be16_toNat, BitVec.toNat_append, ← Nat.shiftLeft_add_eq_or_of_lt lo.isLt, Nat.shiftLeft_eq]

theorem be16_eq_xor (hi lo : Byte) : be16 hi lo = hi.setWidth 16 <<< 8 ^^^ lo.setWidth 16 := by
  rw [be16_eq_append]
  apply BitVec.eq_of_getLsbD_eq
  intro i hi
  simp only [BitVec.getLsbD_append, BitVec.getLsbD_xor, BitVec.getLsbD_shiftLeft, BitVec.getLsbD_setWidth]
  by_cases hlow : i < 8
  · simp [hlow, hi]
  · simp [hlow, BitVec.getLsbD_of_ge lo i (by omega), show i - 8 < 16 by omega, show i < 16 by omega]

/-- Two bytes bring the register to 0 exactly if they are its own, low byte first. -/
theorem crcUpdate_twice_eq_zero_iff (c : Word) (x y : Byte) :
    crcUpdate (crcUpdate c x) y = 0#16 ↔ x = lo8 c ∧ y = hi8 c := by
  rw [crcUpdate_eq_zero_iff, crcUpdate_eq_setWidth_iff]
  have : c ^^^ x.setWidth 16 = y.setWidth 16 <<< 8 ↔ c = be16 y x := by
    rw [be16_eq_xor]
    exact ⟨fun h => by rw [← h, BitVec.xor_assoc, BitVec.xor_self, BitVec.xor_zero],
      fun h => by rw [h, BitVec.xor_assoc, BitVec.xor_self, BitVec.xor_zero]⟩
  rw [this]
  constructor
  · rintro rfl
    exact ⟨(lo8_be16 y x).symm, (hi8_be16 y x).symm⟩
  · rintro ⟨rfl, rfl⟩
    exact (be16_hi8_lo8 c).symm

/-- A sequence of at least 2 bytes is some bytes and two more. -/
theorem exists_append_two {f : List Byte} (hf : 2 ≤ f.length) : ∃ body x y, f = body ++ [x, y] := by
  obtain ⟨x, y, hxy⟩ := List.length_eq_two.1 (show (f.drop (f.length - 2)).length = 2 by simp; omega)
  exact ⟨f.take (f.length - 2), x, y, by rw [← hxy, List.take_append_drop]⟩

/-- Settles O8: two bytes bring the checksum of the bytes before them to 0 exactly if they are its own. -/
theorem checksumTestIsZeroResidue : Obligations.ChecksumTestIsZeroResidue := by
  intro f hf
  obtain ⟨body, x, y, rfl⟩ := exists_append_two hf
  rw [List.append_cons, crc16_concat, crc16_concat, crcUpdate_twice_eq_zero_iff]
  simp [checksumValid, crcBytes]

/-- Settles O10. -/
theorem crcWorkedExample : Obligations.CrcWorkedExample := by
  unfold Obligations.CrcWorkedExample
  decide

end Sys2Proof.Machine

/-! Frame extraction (41_frame_assembler.md section 2): what `Extract` takes is one whole frame that does
not begin with 0, and every other byte but discarded zeros is still there. -/

namespace Sys2Proof.Machine

/-! ## The zero discard -/

/-- Settles O14: the number of zeros dropped is that of the discard's own specification. -/
theorem zeroDiscardIsExact : Obligations.ZeroDiscardIsExact := by
  intro bs
  obtain ⟨k, hbs, hleft, hstop⟩ := discardZeros_spec bs
  have hdrop : bs.drop k = discardZeros bs := by
    rw [hbs, List.drop_left' List.length_replicate, ← hbs]
  have hlen : bs.length = k + (discardZeros bs).length := by
    simpa using congrArg List.length hbs
  refine ⟨k, hdrop.symm, fun j hj => ⟨?_, ?_⟩, ?_⟩
  · rw [hbs, List.getElem?_append_left (by simpa using hj), List.getElem?_replicate_of_lt hj]
  · have := hleft (by omega)
    omega
  · rw [← hdrop, List.length_drop] at hstop
    simpa using hstop

/-- Zeros before a head that is not 0 are all discarded. -/
theorem discardZeros_replicate (zeros : Nat) {b : Byte} (hb : b ≠ 0#8) {rest : List Byte}
    (hlen : 7 ≤ rest.length) : discardZeros (List.replicate zeros 0#8 ++ b :: rest) = b :: rest := by
  induction zeros with
  | zero => exact discardZeros_nonzero b rest hb
  | succ n ih => rw [List.replicate_succ, List.cons_append, discardZeros_zero _ (by simp; omega), ih]

/-! ## Whole frames -/

/-- One whole frame as the assembler delivers it: not beginning with 0, of the length that its own bytes 1
and 6 tell (30_encoding.md R73, 41_frame_assembler.md R113). -/
def WholeFrame (f : List Byte) : Prop :=
  8 ≤ f.length ∧ f.getD 0 0#8 ≠ 0#8 ∧
    f.length = if isExtendedCode (f.getD 1 0#8) then 9 + (f.getD 6 0#8).toNat else 8

/-- A whole frame is the encoding of the one instruction the decoder reads from it. -/
theorem WholeFrame.decode {f : List Byte} (hf : WholeFrame f) :
    ∃ i, decode f = .ok (i, []) ∧ i.wellFormed = true ∧ encode i = f := by
  obtain ⟨hge, -, hlen⟩ := hf
  obtain ⟨i, rest, hread⟩ := decode_whole hge (fun hcode => by
    rw [if_pos ((isExtendedCode_iff _).2 hcode)] at hlen; omega)
  obtain ⟨hi, hbytes⟩ := encodeOfDecodeIsTheBytes _ _ _ hread
  have hown := encode_length hi
  rw [← encode_append_getD i rest (by decide), ← encode_append_getD i rest (by decide), hbytes, ← hlen] at hown
  have hrest : rest = [] := by
    have := congrArg List.length hbytes
    rw [List.length_append] at this
    exact List.length_eq_zero_iff.1 (by omega)
  subst hrest
  exact ⟨i, hread, hi, by simpa using hbytes⟩

/-! ## What extraction does with the bytes -/

/-- The base of an extended frame whose tail is awaited (10_state.md R27, 41_frame_assembler.md R113). -/
def ExtendedBase (base : List Byte) : Prop :=
  base.length = 8 ∧ base.getD 0 0#8 ≠ 0#8 ∧ isExtendedCode (base.getD 1 0#8) = true

/-- The state once a base candidate of function code 15 or 16 stands in `hold`
(41_frame_assembler.md R116). -/
def State.awaitTail (base tail : List Byte) (s : State) : State :=
  { s with buf := tail, hold := base, need := declaredTail base, asm := .awaitingExtendedPayload }

theorem State.AssemblerConsistent.waiting {s : State} (hs : s.AssemblerConsistent)
    (ha : s.asm = .awaitingExtendedPayload) : ExtendedBase s.hold ∧ s.need = declaredTail s.hold := by
  obtain ⟨hlen, hne, hcode, hneed⟩ := hs.2 ha
  exact ⟨⟨hlen, hne, (isExtendedCode_iff _).2 hcode⟩, hneed⟩

theorem State.awaitTail_consistent {base : List Byte} (hbase : ExtendedBase base) (tail : List Byte) (s : State) :
    (s.awaitTail base tail).AssemblerConsistent := by
  obtain ⟨hlen, hne, hcode⟩ := hbase
  exact ⟨by simp [State.awaitTail], fun _ => ⟨hlen, hne, (isExtendedCode_iff _).1 hcode, rfl⟩⟩

/-- A base with the tail it declares is a whole frame. -/
theorem ExtendedBase.wholeFrame {base part : List Byte} (hbase : ExtendedBase base)
    (hpart : part.length = declaredTail base) : WholeFrame (base ++ part) := by
  obtain ⟨hlen, hne, hcode⟩ := hbase
  have hbyte : ∀ j < 8, (base ++ part).getD j 0#8 = base.getD j 0#8 := fun j hj =>
    List.getD_append _ _ _ _ (by omega)
  refine ⟨by rw [List.length_append]; omega, by rwa [hbyte 0 (by decide)], ?_⟩
  rw [hbyte 1 (by decide), hbyte 6 (by decide), if_pos hcode, List.length_append, hlen, hpart, declaredTail]
  omega

/-! ## Extraction in AwaitingHeader -/

section
variable {s : State} (ha : s.asm = .awaitingHeader)
include ha

theorem extract_header_short (hlen : (discardZeros s.buf).length < 8) :
    s.extract = (none, { s with buf := discardZeros s.buf }) := by
  simp [State.extract, ha, State.extractBase, hlen]

theorem extract_header_base {base tail : List Byte} (hbuf : discardZeros s.buf = base ++ tail)
    (hlen : base.length = 8) (hcode : isExtendedCode (base.getD 1 0#8) = false) :
    s.extract = (some base, { s with buf := tail, hold := [] }) := by
  have hbyte : (base ++ tail).getD 1 0#8 = base.getD 1 0#8 := List.getD_append _ _ _ _ (by omega)
  simp only [State.extract, ha, State.extractBase, hbuf, hbyte, hcode, State.takeBase,
    List.take_left' hlen, List.drop_left' hlen]
  simp [hlen]

theorem extract_header_extended {base tail : List Byte} (hbuf : discardZeros s.buf = base ++ tail)
    (hlen : base.length = 8) (hcode : isExtendedCode (base.getD 1 0#8) = true) :
    s.extract = (s.awaitTail base tail).extractTail := by
  have hbyte : (base ++ tail).getD 1 0#8 = base.getD 1 0#8 := List.getD_append _ _ _ _ (by omega)
  simp only [State.extract, ha, State.extractBase, hbuf, hbyte, hcode, State.beginExtended,
    List.take_left' hlen, List.drop_left' hlen]
  simp [hlen, State.awaitTail]

/-- Everything extraction can do in AwaitingHeader: fewer than 8 bytes are left, or a base candidate stands
at the head, of either format (41_frame_assembler.md R114 to R116). -/
theorem extract_header_cases :
    ((discardZeros s.buf).length < 8 ∧ s.extract = (none, { s with buf := discardZeros s.buf })) ∨
    ∃ base tail, discardZeros s.buf = base ++ tail ∧ base.length = 8 ∧ base.getD 0 0#8 ≠ 0#8 ∧
      ((isExtendedCode (base.getD 1 0#8) = true ∧ s.extract = (s.awaitTail base tail).extractTail) ∨
       (isExtendedCode (base.getD 1 0#8) = false ∧
          s.extract = (some base, { s with buf := tail, hold := [] }))) := by
  by_cases hshort : (discardZeros s.buf).length < 8
  · exact .inl ⟨hshort, extract_header_short ha hshort⟩
  · right
    obtain ⟨-, -, -, hstop⟩ := discardZeros_spec s.buf
    have hsplit := (List.take_append_drop 8 (discardZeros s.buf)).symm
    have hlen : ((discardZeros s.buf).take 8).length = 8 := by rw [List.length_take]; omega
    have hhead : ((discardZeros s.buf).take 8).getD 0 0#8 ≠ 0#8 := by
      rw [← List.getD_append _ (List.drop 8 _) _ _ (by omega), ← hsplit]
      exact hstop.resolve_left hshort
    refine ⟨_, _, hsplit, hlen, hhead, ?_⟩
    cases hcode : isExtendedCode (((discardZeros s.buf).take 8).getD 1 0#8) with
    | true => exact .inl ⟨rfl, extract_header_extended ha hsplit hlen hcode⟩
    | false => exact .inr ⟨rfl, extract_header_base ha hsplit hlen hcode⟩

end

theorem extract_waiting {s : State} (ha : s.asm = .awaitingExtendedPayload) : s.extract = s.extractTail := by
  simp [State.extract, ha]

/-! ## What extraction takes and what it leaves -/

theorem extractTail_wholeFrame {s s' : State} {f : List Byte} (hbase : ExtendedBase s.hold)
    (hneed : s.need = declaredTail s.hold) (h : s.extractTail = (some f, s')) : WholeFrame f := by
  rcases extractTail_cases s with ⟨-, hnone⟩ | ⟨hle, hsome⟩
  · simp [hnone] at h
  · obtain ⟨rfl, -⟩ := by simpa [hsome] using h
    exact hbase.wholeFrame (by rw [List.length_take, Nat.min_eq_left hle, hneed])

/-- A frame that extraction completes is whole, in every state of AwaitingHeader and every consistent one. -/
theorem extract_wholeFrame {s s' : State} {f : List Byte} (hs : s.asm = .awaitingHeader ∨ s.AssemblerConsistent)
    (h : s.extract = (some f, s')) : WholeFrame f := by
  cases ha : s.asm with
  | awaitingHeader =>
    rcases extract_header_cases ha with ⟨-, hnone⟩ | ⟨base, tail, -, hlen, hne, ⟨hcode, hext⟩ | ⟨hcode, hbase⟩⟩
    · simp [hnone] at h
    · exact extractTail_wholeFrame (s := s.awaitTail base tail) ⟨hlen, hne, hcode⟩ rfl (hext ▸ h)
    · obtain ⟨rfl, -⟩ := by simpa [hbase] using h
      exact ⟨by omega, hne, by rw [hcode, hlen, if_neg Bool.false_ne_true]⟩
  | awaitingExtendedPayload =>
    obtain ⟨hbase, hneed⟩ := (hs.resolve_left (by simp [ha])).waiting ha
    exact extractTail_wholeFrame hbase hneed (extract_waiting ha ▸ h)

/-- Extraction touches only `buf`, `asm`, `hold` and `need`, said of the state it gives. -/
theorem extract_next_frame {s s' : State} {r : Option (List Byte)} (h : s.extract = (r, s')) :
    s' = { s with buf := s'.buf, asm := s'.asm, hold := s'.hold, need := s'.need } := by
  have hframe := extract_frame s
  rwa [h] at hframe

theorem extract_config {s s' : State} {r : Option (List Byte)} (h : s.extract = (r, s')) :
    s'.config = s.config := by
  rw [extract_next_frame h]

theorem extractTail_buf (s : State) : ∃ k, s.extractTail.2.buf = s.buf.drop k := by
  rcases extractTail_cases s with ⟨-, h⟩ | ⟨-, h⟩
  · exact ⟨0, by rw [h, List.drop_zero]⟩
  · exact ⟨s.need, by rw [h, State.endExtended_buf]⟩

theorem discardZeros_suffix (bs : List Byte) : ∃ k, discardZeros bs = bs.drop k := by
  obtain ⟨k, h, -⟩ := zeroDiscardIsExact bs
  exact ⟨k, h⟩

/-- Whatever extraction does, it removes bytes from the head of `buf` alone (10_state.md R25). -/
theorem extract_buf (s : State) : ∃ k, s.extract.2.buf = s.buf.drop k := by
  cases ha : s.asm with
  | awaitingHeader =>
    obtain ⟨z, hz⟩ := discardZeros_suffix s.buf
    have hrest : ∀ {base tail : List Byte}, discardZeros s.buf = base ++ tail → base.length = 8 →
        tail = s.buf.drop (z + 8) := fun hbuf hlen => by
      rw [← List.drop_drop, ← hz, hbuf, List.drop_left' hlen]
    rcases extract_header_cases ha with ⟨-, h⟩ | ⟨base, tail, hbuf, hlen, -, ⟨-, h⟩ | ⟨-, h⟩⟩
    · exact ⟨z, by rw [h, hz]⟩
    · obtain ⟨k, hk⟩ := extractTail_buf (s.awaitTail base tail)
      exact ⟨z + 8 + k, by rw [h, hk, ← List.drop_drop, ← hrest hbuf hlen]; rfl⟩
    · exact ⟨z + 8, by rw [h, hrest hbuf hlen]⟩
  | awaitingExtendedPayload => rw [extract_waiting ha]; exact extractTail_buf s

/-- The bytes that `Extract` has not yet delivered, oldest first: `hold`, then `buf`. -/
def State.pending (s : State) : List Byte := s.hold ++ s.buf

/-- The tail's part of `Extract` loses no byte; a completed frame leaves nothing in `hold`. -/
theorem extractTail_pending (s : State) :
    (s.extractTail = (none, s)) ∨
    ∃ f, s.extractTail = (some f, s.endExtended) ∧ s.pending = f ++ s.endExtended.buf := by
  rcases extractTail_cases s with ⟨-, h⟩ | ⟨-, h⟩
  · exact .inl h
  · exact .inr ⟨_, h, by simp [State.pending]⟩

theorem discardZeros_prefix (bs : List Byte) : ∃ zeros, bs = List.replicate zeros 0#8 ++ discardZeros bs := by
  obtain ⟨zeros, h, -⟩ := discardZeros_spec bs
  exact ⟨zeros, h⟩

section
variable {s s' : State} (hs : s.AssemblerConsistent)
include hs

/-- From a consistent state, where no frame is complete: the state stays consistent and only zeros are lost,
none of them where a base waits. -/
theorem extract_none (h : s.extract = (none, s')) :
    s'.AssemblerConsistent ∧ ∃ zeros, (s.hold ≠ [] → zeros = 0) ∧
      s.pending = List.replicate zeros 0#8 ++ s'.pending := by
  cases ha : s.asm with
  | awaitingHeader =>
    obtain ⟨hhold, hneed⟩ := hs.1 ha
    obtain ⟨zeros, hzeros⟩ := discardZeros_prefix s.buf
    rcases extract_header_cases ha with ⟨-, hnone⟩ | ⟨base, tail, hbuf, hlen, hne, ⟨hcode, hext⟩ | ⟨-, hbase⟩⟩
    · obtain rfl : _ = s' := by simpa [hnone] using h
      refine ⟨hs, zeros, by simp [hhold], ?_⟩
      simpa [State.pending, hhold] using hzeros
    · rcases extractTail_pending (s.awaitTail base tail) with hwait | ⟨f, hsome, -⟩
      · obtain rfl : _ = s' := by simpa [hext, hwait] using h
        refine ⟨State.awaitTail_consistent ⟨hlen, hne, hcode⟩ tail s, zeros, by simp [hhold], ?_⟩
        rw [hbuf] at hzeros
        simpa [State.pending, State.awaitTail, hhold] using hzeros
      · simp [hext, hsome] at h
    · simp [hbase] at h
  | awaitingExtendedPayload =>
    rw [extract_waiting ha] at h
    rcases extractTail_pending s with hwait | ⟨f, hsome, -⟩
    · obtain rfl : s = s' := by simpa [hwait] using h
      exact ⟨hs, 0, fun _ => rfl, rfl⟩
    · simp [hsome] at h

/-- From a consistent state, where a frame is complete: exactly discarded zeros and the frame are gone, none
of the zeros where a base waited, and the assembler is in AwaitingHeader. -/
theorem extract_some {f : List Byte} (h : s.extract = (some f, s')) :
    s' = { s with buf := s'.buf, hold := [], need := 0, asm := .awaitingHeader } ∧
      ∃ zeros, (s.hold ≠ [] → zeros = 0) ∧ s.pending = List.replicate zeros 0#8 ++ f ++ s'.buf := by
  cases ha : s.asm with
  | awaitingHeader =>
    obtain ⟨hhold, hneed⟩ := hs.1 ha
    obtain ⟨zeros, hzeros⟩ := discardZeros_prefix s.buf
    have hnozeros : s.hold ≠ [] → zeros = 0 := by simp [hhold]
    rcases extract_header_cases ha with ⟨-, hnone⟩ | ⟨base, tail, hbuf, hlen, hne, ⟨hcode, hext⟩ | ⟨-, hbase⟩⟩
    · simp [hnone] at h
    · rcases extractTail_pending (s.awaitTail base tail) with hwait | ⟨g, hsome, hbytes⟩
      · simp [hext, hwait] at h
      · obtain ⟨rfl, rfl⟩ : g = f ∧ _ = s' := by simpa [hext, hsome] using h
        refine ⟨rfl, zeros, hnozeros, ?_⟩
        rw [State.pending, hhold, List.nil_append, hzeros, hbuf, List.append_assoc, ← hbytes]
        rfl
    · obtain ⟨rfl, rfl⟩ : base = f ∧ _ = s' := by simpa [hbase] using h
      refine ⟨by simp [hneed, ha], zeros, hnozeros, ?_⟩
      rw [State.pending, hhold, List.nil_append, hzeros, hbuf, List.append_assoc]
  | awaitingExtendedPayload =>
    rw [extract_waiting ha] at h
    rcases extractTail_pending s with hwait | ⟨g, hsome, hbytes⟩
    · simp [hwait] at h
    · obtain ⟨rfl, rfl⟩ : g = f ∧ _ = s' := by simpa [hsome] using h
      exact ⟨rfl, 0, fun _ => rfl, by simpa using hbytes⟩

end

end Sys2Proof.Machine

/-! What each host operation does to the state, as a step (41_frame_assembler.md, 42_dispatcher.md R130,
70_reset_and_hazards.md R250): `Reset`, `Feed`, `Tick`, and a `Poll` that finds a frame or none. -/

namespace Sys2Proof.Machine

/-! ## Reset, Feed, Tick -/

/-- Settles O11. -/
theorem resetGivesTheResetState : Obligations.ResetGivesTheResetState := by
  intro s rest hw hops
  rw [step_of_op hw hops]
  rfl

theorem hasRoom_unbounded {s : State} (hcap : s.config.bufCap = .unbounded) : s.hasRoom = true := by
  simp [State.hasRoom, hcap]

theorem hasRoom_bytes {s : State} {n : Nat} (hcap : s.config.bufCap = .bytes n) :
    s.hasRoom = decide (s.buf.length < n) := by
  simp [State.hasRoom, hcap]

theorem feed_of_room {s : State} (h : s.hasRoom = true) (b : Byte) :
    s.feed b = { s with idle := 0, buf := s.buf ++ [b] } := by
  simp [State.feed, h]

theorem feed_of_full {s : State} (h : s.hasRoom = false) (b : Byte) :
    s.feed b = { s with idle := 0, ovf := true } := by
  simp [State.feed, h]

theorem step_feed {s : State} {b : Byte} {rest : List HostOp} (hw : s.config.wf = true)
    (hops : s.ops = .feed b :: rest) : step s = .next ((s.withOps rest).feed b) :=
  step_of_op hw hops

theorem step_tick {s : State} {rest : List HostOp} (hw : s.config.wf = true)
    (hops : s.ops = .tick :: rest) : step s = .next (s.withOps rest).tick :=
  step_of_op hw hops

/-- Settles O12: the three clauses are the answers of the room test. -/
theorem feedAppendsOrDrops : Obligations.FeedAppendsOrDrops := by
  intro s b rest hw hops
  rw [step_feed hw hops]
  refine ⟨fun hcap => ?_, fun n hcap hn => ?_, fun n hcap hn => ?_⟩
  · rw [feed_of_room (s := s.withOps rest) (hasRoom_unbounded hcap)]
    rfl
  · rw [feed_of_room (s := s.withOps rest) ((hasRoom_bytes hcap).trans (decide_eq_true hn))]
    rfl
  · rw [feed_of_full (s := s.withOps rest) ((hasRoom_bytes hcap).trans (decide_eq_false (Nat.not_lt.2 hn)))]
    rfl

/-- A `Tick` that does not abandon only counts. -/
theorem tick_of_not_silent {s : State} (h : s.countTick.silent = false) : s.tick = s.countTick := by
  simp [State.tick, h]

theorem tick_of_silent {s : State} (h : s.countTick.silent = true) : s.tick = s.countTick.abandon := by
  simp [State.tick, h]

/-- Settles O13: the two clauses are the two answers of the abandonment test. -/
theorem tickCountsAndAbandons : Obligations.TickCountsAndAbandons := by
  intro s rest hw hops
  rw [step_tick hw hops]
  constructor
  · intro ha hidle hlen
    have hmin : min (s.idle + 1) s.config.tSilence = s.config.tSilence := Nat.min_eq_right hidle
    rw [tick_of_silent (s := s.withOps rest) ((silent_iff _).2 ⟨ha, hmin, hlen⟩), State.abandon,
      State.countTick, State.withOps, hmin]
  · intro h
    have hsilent : (s.withOps rest).countTick.silent = false := by
      rw [← Bool.not_eq_true, silent_iff]
      rintro ⟨ha, hidle, hlen⟩
      simp only [State.countTick_asm, State.countTick_idle, State.countTick_buf, State.countTick_need,
        State.countTick_config, State.withOps_asm, State.withOps_idle, State.withOps_buf, State.withOps_need,
        State.withOps_config] at ha hidle hlen
      rcases h with h | h | h
      · simp [ha] at h
      · omega
      · omega
    rw [tick_of_not_silent hsilent]
    rfl

/-! ## Poll -/

/-- The state in which a listed `Poll` extracts: the operation taken off the list, the reply emptied
(10_state.md R35). -/
def State.atPoll (rest : List HostOp) (s : State) : State := { s with ops := rest, resp := [] }

section
variable {s : State} {rest : List HostOp} (hw : s.config.wf = true) (hops : s.ops = .poll :: rest)
include hw hops

theorem step_poll_of_timeout (ht : s.tmo = true) :
    step s = .next { s with ops := rest, tmo := false, result := .frameTimeout, resp := [] } := by
  rw [step_of_op hw hops]
  exact if_pos ht

theorem step_poll_of_no_timeout (ht : s.tmo = false) : step s =
    match (s.atPoll rest).extract with
    | (none, s') => .next (s'.conclude .noFullPackage [])
    | (some f, s') => runFrame f s' := by
  rw [step_of_op hw hops]
  exact if_neg (by simp [ht])

theorem step_poll_of_none {s' : State} (ht : s.tmo = false) (h : (s.atPoll rest).extract = (none, s')) :
    step s = .next (s'.conclude .noFullPackage []) := by
  rw [step_poll_of_no_timeout hw hops ht, h]

/-- A `Poll` that extracts the encoding of a well-formed instruction runs it. -/
theorem step_poll_of_frame {s' : State} {i : Instr} (ht : s.tmo = false) (hi : i.wellFormed = true)
    (h : (s.atPoll rest).extract = (some (encode i), s')) : step s = exec i s' := by
  have hread := decodeOfEncodeIsTheInstruction i [] hi
  rw [List.append_nil] at hread
  rw [step_poll_of_no_timeout hw hops ht, h]
  simp only [runFrame, hread]

end

/-- Settles O20. -/
theorem abandonedFrameIsReportedOnce : Obligations.AbandonedFrameIsReportedOnce :=
  fun _ _ hw hops ht => step_poll_of_timeout hw hops ht

/-- Settles O15: fewer than 8 bytes are left after the discard, and a short buffer it leaves alone. -/
theorem shortBufferIsLeftAlone : Obligations.ShortBufferIsLeftAlone := by
  intro s rest hw ha
  have hpoll : s.ops = .poll :: rest → s.tmo = false → (discardZeros s.buf).length < 8 →
      step s = .next { s with ops := rest, buf := discardZeros s.buf, result := .noFullPackage, resp := [] } :=
    fun hops ht hlen =>
      step_poll_of_none hw hops ht (extract_header_short (s := s.atPoll rest) ha hlen)
  refine ⟨fun hops ht hlen => ?_, hpoll, fun hops => (tickCountsAndAbandons s rest hw hops).2 (.inl ha)⟩
  have hsame := discardZeros_short s.buf hlen
  rw [hsame] at hpoll
  exact hpoll hops ht hlen

/-- Settles O18. -/
theorem stepRunsTheCompletedExtendedFrame : Obligations.StepRunsTheCompletedExtendedFrame := by
  intro s i part tail rest hw hops ht ha hi hframe hneed hbuf
  apply step_poll_of_frame hw hops ht hi
  rw [extract_waiting (s := s.atPoll rest) ha, extractTail_done]
  · simp [State.endExtended, State.atPoll, hneed, hbuf, hframe]
  · simp [State.atPoll, hneed, hbuf]

/-- A frame is a base candidate, which names its format and its tail, and the tail it names (30_encoding.md
R73). -/
theorem encode_split {i : Instr} (hi : i.wellFormed = true) : ∃ base part, encode i = base ++ part ∧
    base.length = 8 ∧ base.getD 0 0#8 = i.address ∧ base.getD 1 0#8 = i.functionCode ∧
    part.length = if isExtendedCode i.functionCode then declaredTail base else 0 := by
  have hlen : ((encode i).take 8).length = 8 := by
    rw [List.length_take, Nat.min_eq_left (encode_length_ge i)]
  have hbyte : ∀ j < 8, ((encode i).take 8).getD j 0#8 = (encode i).getD j 0#8 := by
    intro j hj
    conv_rhs => rw [← List.take_append_drop 8 (encode i)]
    exact (List.getD_append _ _ _ _ (by omega)).symm
  refine ⟨_, _, (List.take_append_drop 8 _).symm, hlen, ?_, ?_, ?_⟩
  · rw [hbyte 0 (by decide), encode_getD_zero]
  · rw [hbyte 1 (by decide), encode_getD_one]
  · rw [List.length_drop, encode_length hi, declaredTail, hbyte 6 (by decide), encode_getD_one]
    split <;> omega

/-- Settles O17: the zeros are discarded, and the base's own bytes say where the frame ends. -/
theorem stepRunsTheFrameAtTheHead : Obligations.StepRunsTheFrameAtTheHead := by
  intro s i zeros tail rest hw hops ht ha hhold hneed hi haddress hbuf
  apply step_poll_of_frame hw hops ht hi
  obtain ⟨base, part, hframe, hlen, -, hcode, hpart⟩ := encode_split hi
  have hdiscard : discardZeros s.buf = base ++ (part ++ tail) := by
    obtain ⟨t, hcons, ht⟩ := encode_eq_cons i
    rw [hbuf, List.append_assoc, hcons, List.cons_append, discardZeros_replicate zeros haddress
      (by simp; omega), ← List.cons_append, ← hcons, hframe, List.append_assoc]
  cases hx : isExtendedCode i.functionCode with
  | false =>
    have hnil : part = [] := List.length_eq_zero_iff.1 (by simpa [hx] using hpart)
    rw [extract_header_base (s := s.atPoll rest) ha hdiscard hlen (by rw [hcode, hx]), hframe, hnil]
    simp [State.atPoll, hhold]
  | true =>
    rw [hx, if_pos rfl] at hpart
    rw [extract_header_extended (s := s.atPoll rest) ha hdiscard hlen (by rw [hcode, hx]), extractTail_done]
    · simp [State.awaitTail, State.endExtended, State.atPoll, ← hpart, hframe, ha, hneed, hhold]
    · simp [State.awaitTail, hpart]

/-- Settles O19: the first `Poll` puts the base in `hold`; then, as in every later one, the tail is too
short. -/
theorem extendedFrameWaitsForItsTail : Obligations.ExtendedFrameWaitsForItsTail := by
  intro s rest hw hops ht
  constructor
  · intro zeros base tail ha hbuf hlen hne hcode htail
    refine step_poll_of_none hw hops ht ?_ (s' := (s.atPoll rest).awaitTail base tail)
    have hdiscard : discardZeros s.buf = base ++ tail := by
      obtain _ | ⟨b, bs⟩ := base
      · simp at hlen
      · rw [hbuf, List.append_assoc, List.cons_append]
        exact discardZeros_replicate zeros hne (by simp at hlen ⊢; omega)
    rw [extract_header_extended (s := s.atPoll rest) ha hdiscard hlen ((isExtendedCode_iff _).2 hcode)]
    exact extractTail_wait _ htail
  · intro ha hlen
    refine step_poll_of_none hw hops ht ?_ (s' := s.atPoll rest)
    rw [extract_waiting (s := s.atPoll rest) ha]
    exact extractTail_wait _ hlen

/-! ## A placed word -/

/-- The step after placing bytes that begin with a whole frame runs that frame on the state before the
placing, but for `buf`, the emptied reply and assembler, and the cleared timeout (log 3). -/
theorem step_placeFrame {s : State} {i : Instr} (hw : s.config.wf = true) (hi : i.wellFormed = true)
    (tail : List Byte) : ∃ buf, step (s.placeFrame (encode i ++ tail)) = exec i
      { s with resp := [], buf := buf, hold := [], need := 0, asm := .awaitingHeader, tmo := false } := by
  obtain ⟨base, part, hframe, hlen, haddress, hcode, hpart⟩ := encode_split hi
  have hbyte : ∀ j < 8, (encode i ++ tail).getD j 0#8 = base.getD j 0#8 := fun j hj => by
    rw [hframe, List.append_assoc]; exact List.getD_append _ _ _ _ (by omega)
  have htake : (encode i ++ tail).take 8 = base := by
    rw [hframe, List.append_assoc, List.take_left' hlen]
  have hdrop : (encode i ++ tail).drop 8 = part ++ tail := by
    rw [hframe, List.append_assoc, List.drop_left' hlen]
  have htail : declaredTail (encode i ++ tail) = declaredTail base := by
    rw [declaredTail, hbyte 6 (by decide), declaredTail]
  unfold State.placeFrame
  rw [hbyte 1 (by decide), hbyte 0 (by decide), hcode, haddress, htake, hdrop, htail]
  cases hx : isExtendedCode i.functionCode with
  | true =>
    rw [hx, if_pos rfl] at hpart
    rw [if_pos rfl, List.take_left' hpart]
    exact ⟨_, stepRunsTheCompletedExtendedFrame _ i part _ s.ops hw rfl rfl rfl hi hframe hpart.symm rfl⟩
  | false =>
    have hnil : part = [] := List.length_eq_zero_iff.1 (by simpa [hx] using hpart)
    rw [if_neg Bool.false_ne_true]
    rw [hnil, List.append_nil] at hframe
    split
    case isTrue =>
      exact ⟨_, stepRunsTheCompletedExtendedFrame _ i [] s.buf s.ops hw rfl rfl rfl hi (by simpa using hframe)
        rfl rfl⟩
    case isFalse hne =>
      exact ⟨_, stepRunsTheFrameAtTheHead _ i 0 (s.buf.drop 8) s.ops hw rfl rfl rfl rfl rfl hi hne
        (by simp [hframe])⟩

/-- Settles O6: a table word's bytes begin with a whole frame. -/
theorem placedWordIsRunByTheNextStep : Obligations.PlacedWordIsRunByTheNextStep := by
  intro s w hw _
  obtain ⟨i, tail, hread, hi, hbytes⟩ := decode_tableBytes w
  obtain ⟨buf, hstep⟩ := step_placeFrame hw hi tail
  rw [← hbytes] at hstep
  exact ⟨i, _, hread, hstep, rfl, rfl, rfl, rfl, rfl, rfl, rfl, rfl, rfl, rfl, rfl⟩

/-! ## Past the list -/

/-- Settles O50. -/
theorem environmentStaysFreePastItsList : Obligations.EnvironmentStaysFreePastItsList := by
  intro s hw hops
  have hnext := State.nextOp_free hops
  have hturn := State.takeTurn_free hops
  cases hop : Config.freeOp s.turns with
  | none => simp [step, performNext, hw, hnext, hop, hturn]
  | some op =>
    have hfree : step s = performOp op s.takeTurn := by simp [step, performNext, hw, hnext, hop]
    rw [hfree, hturn, hops]
    exact (step_of_op (s := { s with ops := [op], turns := s.turns + 1 }) hw rfl).symm

end Sys2Proof.Machine

/-! Runs of several operations: a frame fed in two parts (41_frame_assembler.md sections 1 and 2) and the
end of a wait on silence (section 3). -/

namespace Sys2Proof.Machine

/-! ## Feeding several bytes -/

/-- The state after feeding `bs` with room for all of them, `rest` being the operations after them. -/
def State.fed (bs : List Byte) (rest : List HostOp) (s : State) : State :=
  { s with ops := rest, buf := s.buf ++ bs, idle := if bs = [] then s.idle else 0 }

/-- A capacity that admits more bytes than are buffered has room. -/
theorem hasRoom_of_admits {s : State} {n : Nat} (h : Capacity.admits s.config.bufCap n = true)
    (hn : s.buf.length < n) : s.hasRoom = true := by
  cases hcap : s.config.bufCap with
  | unbounded => exact hasRoom_unbounded hcap
  | bytes c =>
    rw [hcap, Capacity.admits, decide_eq_true_eq] at h
    rw [hasRoom_bytes hcap, decide_eq_true_eq]
    omega

theorem runSteps_feed {bs : List Byte} {rest : List HostOp} {s : State} (hw : s.config.wf = true)
    (hops : s.ops = bs.map HostOp.feed ++ rest)
    (hcap : Capacity.admits s.config.bufCap (s.buf.length + bs.length) = true) :
    runSteps bs.length s = .next (s.fed bs rest) := by
  induction bs generalizing s with
  | nil =>
    obtain rfl : s.ops = rest := hops
    simp [runSteps, State.fed]
  | cons b bs ih =>
    have hroom : s.hasRoom = true := hasRoom_of_admits hcap (by simp)
    have hstep : step s = .next ((s.withOps (bs.map HostOp.feed ++ rest)).feed b) := step_feed hw hops
    rw [feed_of_room (s := s.withOps (bs.map HostOp.feed ++ rest)) hroom] at hstep
    rw [List.length_cons, runSteps_succ hstep]
    refine Eq.trans (ih hw rfl ?_) ?_
    · simpa [Nat.add_assoc, Nat.add_comm, Nat.add_left_comm] using hcap
    · simp [State.fed, State.withOps]

/-- Bytes fed and then a `Poll`: the run ends with that `Poll`'s step. -/
theorem runSteps_feed_poll {bs : List Byte} {rest : List HostOp} {s : State} (hw : s.config.wf = true)
    (hops : s.ops = bs.map HostOp.feed ++ .poll :: rest)
    (hcap : Capacity.admits s.config.bufCap (s.buf.length + bs.length) = true) :
    runSteps (bs.length + 1) s = step (s.fed bs (.poll :: rest)) := by
  rw [runSteps_add (runSteps_feed hw hops hcap), runSteps_one]

/-- Two parts, each followed by a `Poll`: if the first `Poll` gives a next state, the run ends with the second
`Poll`'s step. -/
theorem runSteps_two_parts {front back : List Byte} {s u : State} (hw : s.config.wf = true)
    (hops : s.ops = front.map HostOp.feed ++ .poll :: (back.map HostOp.feed ++ [.poll]))
    (hfront : Capacity.admits s.config.bufCap (s.buf.length + front.length) = true)
    (hfirst : step (s.fed front (.poll :: (back.map HostOp.feed ++ [.poll]))) = .next u)
    (hconfig : u.config = s.config) (huops : u.ops = back.map HostOp.feed ++ [.poll])
    (hback : Capacity.admits s.config.bufCap (u.buf.length + back.length) = true) :
    runSteps s.ops.length s = step (u.fed back [.poll]) := by
  have hlen : s.ops.length = (front.length + 1) + (back.length + 1) := by
    rw [hops]
    simp
    omega
  rw [hlen, runSteps_add ((runSteps_feed_poll hw hops hfront).trans hfirst),
    runSteps_feed_poll (hconfig ▸ hw) huops (hconfig ▸ hback)]

/-! ## An extended frame in two parts -/

theorem Capacity.admits_mono {c : Capacity} {m n : Nat} (h : Capacity.admits c n = true) (hmn : m ≤ n) :
    Capacity.admits c m = true := by
  cases c with
  | unbounded => rfl
  | bytes k =>
    simp only [Capacity.admits, decide_eq_true_eq] at h ⊢
    omega

/-- Nothing is buffered, held or pending. -/
def State.Quiet (s : State) : Prop :=
  s.buf = [] ∧ s.asm = .awaitingHeader ∧ s.hold = [] ∧ s.need = 0 ∧ s.tmo = false

section
variable {s : State} {i : Instr} {front back : List Byte} (hw : s.config.wf = true) (hi : i.wellFormed = true)
  (hx : isExtendedCode i.functionCode = true) (haddress : i.address ≠ 0#8) (hsplit : encode i = front ++ back)
  (hne : back ≠ []) (hquiet : s.Quiet)
  (hops : s.ops = front.map HostOp.feed ++ .poll :: (back.map HostOp.feed ++ [.poll]))
include hw hi haddress hsplit hne hquiet hops

/-- A first part shorter than a base stays in `buf`, and the second `Poll` finds the whole frame there. -/
theorem runSteps_split_before_base (hshort : front.length < 8)
    (hcap : Capacity.admits s.config.bufCap (encode i).length = true) :
    runSteps s.ops.length s = exec i { s with ops := [], idle := 0, result := .noFullPackage, resp := [] } := by
  obtain ⟨hbuf, ha, hhold, hneed, ht⟩ := hquiet
  rw [hsplit, List.length_append] at hcap
  have hfirst := (shortBufferIsLeftAlone (s.fed front (.poll :: (back.map HostOp.feed ++ [.poll]))) _ hw ha).1 rfl
    ht (by simpa [State.fed, hbuf] using hshort)
  rw [runSteps_two_parts hw hops (Capacity.admits_mono hcap (by simp [hbuf])) hfirst rfl rfl
    (by simpa [State.fed, hbuf] using hcap)]
  rw [stepRunsTheFrameAtTheHead _ i 0 [] [] (by exact hw) rfl (by exact ht) (by exact ha) (by exact hhold)
    (by exact hneed) hi haddress (by simp [State.fed, hbuf, hsplit])]
  simp [State.fed, hbuf, hne]

include hx

/-- A first part that holds the base leaves it in `hold`, and the second `Poll` completes it. -/
theorem runSteps_split_in_tail (hlong : 8 ≤ front.length)
    (hcap : Capacity.admits s.config.bufCap front.length = true) :
    runSteps s.ops.length s = exec i { s with ops := [], idle := 0, result := .noFullPackage, resp := [] } := by
  obtain ⟨hbuf, ha, hhold, hneed, ht⟩ := hquiet
  obtain ⟨base, part, hframe, hlen, hbase, hcode, hpart⟩ := encode_split hi
  rw [hx, if_pos rfl] at hpart
  obtain ⟨begun, rfl, rfl⟩ : ∃ begun, front = base ++ begun ∧ part = begun ++ back := by
    obtain ⟨begun, rfl⟩ : base <+: front := List.prefix_of_prefix_length_le (l₃ := encode i)
      (hframe ▸ List.prefix_append _ _) (hsplit ▸ List.prefix_append _ _) (by omega)
    rw [hframe, List.append_assoc] at hsplit
    exact ⟨begun, rfl, List.append_cancel_left hsplit⟩
  rw [List.length_append] at hpart
  have hbegun : begun.length < declaredTail base := by
    have := List.length_pos_iff.2 hne
    omega
  have htail : declaredTail base ≤ 256 := (base.getD 6 0#8).isLt
  have hfirst := (extendedFrameWaitsForItsTail
    (s.fed (base ++ begun) (.poll :: (back.map HostOp.feed ++ [.poll]))) _ hw rfl ht).1 0 base begun ha
    (by simp [State.fed, hbuf]) hlen (hbase ▸ haddress) ((isExtendedCode_iff _).1 (hcode ▸ hx)) hbegun
  rw [runSteps_two_parts hw hops (by simpa [hbuf] using hcap) hfirst rfl rfl
    (Config.wf_admits hw (by simpa [hpart] using htail))]
  rw [stepRunsTheCompletedExtendedFrame _ i (begun ++ back) [] [] (by exact hw) rfl (by exact ht) rfl hi hframe
    ((List.length_append).trans hpart).symm (by simp [State.fed])]
  simp [State.fed, hbuf, hne, ha, hhold, hneed]

end

/-- Settles O21: a first part of fewer than 8 bytes stays in `buf`, a longer one leaves its base in `hold`. -/
theorem splitExtendedFrameIsAnsweredWhole : Obligations.SplitExtendedFrameIsAnsweredWhole := by
  intro s i m hw hi hx haddress hm hcap hbuf ha hhold hneed ht hops
  have hquiet : s.Quiet := ⟨hbuf, ha, hhold, hneed, ht⟩
  have hback : (encode i).drop m ≠ [] := by simpa using hm
  have hsplit := (List.take_append_drop m (encode i)).symm
  have hfront : ((encode i).take m).length = m := by rw [List.length_take]; omega
  rw [List.append_assoc, List.append_assoc, List.singleton_append] at hops
  by_cases hshort : m < 8
  · rw [if_pos hshort] at hcap
    exact runSteps_split_before_base hw hi haddress hsplit hback hquiet hops (by omega) hcap
  · rw [if_neg hshort, ← hfront] at hcap
    exact runSteps_split_in_tail hw hi hx haddress hsplit hback hquiet hops (by omega) hcap

/-! ## Silence -/

/-- In AwaitingHeader `Tick`s only count, up to the limit. -/
theorem runSteps_tick_header {n : Nat} {s : State} {rest : List HostOp} (hw : s.config.wf = true)
    (ha : s.asm = .awaitingHeader) (hidle : s.idle ≤ s.config.tSilence)
    (hops : s.ops = List.replicate n .tick ++ rest) :
    runSteps n s = .next { s with ops := rest, idle := min (s.idle + n) s.config.tSilence } := by
  induction n generalizing s with
  | zero =>
    obtain rfl : s.ops = rest := hops
    simp [runSteps, Nat.min_eq_left hidle]
  | succ n ih =>
    rw [List.replicate_succ, List.cons_append] at hops
    rw [runSteps_succ ((tickCountsAndAbandons s _ hw hops).2 (.inl ha))]
    refine Eq.trans (ih hw ha (Nat.min_le_right _ _) rfl) ?_
    have hmin : min (min (s.idle + 1) s.config.tSilence + n) s.config.tSilence =
        min (s.idle + (n + 1)) s.config.tSilence := by omega
    simp only [hmin]

/-- While an extended frame lacks bytes, `Tick`s that reach the limit abandon it, and further ones change
nothing. -/
theorem runSteps_tick_waiting {n : Nat} {s : State} {rest : List HostOp} (hw : s.config.wf = true)
    (ha : s.asm = .awaitingExtendedPayload) (hlen : s.buf.length < s.need)
    (hidle : s.config.tSilence ≤ s.idle + (n + 1)) (hops : s.ops = List.replicate (n + 1) .tick ++ rest) :
    runSteps (n + 1) s = .next
      { s with
        ops := rest, idle := s.config.tSilence, hold := [], need := 0, buf := [], asm := .awaitingHeader,
        tmo := true } := by
  induction n generalizing s with
  | zero =>
    rw [runSteps_succ ((tickCountsAndAbandons s _ hw hops).1 ha hidle hlen)]
    rfl
  | succ n ih =>
    rw [List.replicate_succ, List.cons_append] at hops
    by_cases hlimit : s.config.tSilence ≤ s.idle + 1
    · rw [runSteps_succ ((tickCountsAndAbandons s _ hw hops).1 ha hlimit hlen)]
      refine Eq.trans (runSteps_tick_header hw rfl (Nat.le_refl _) rfl) ?_
      simp
    · have hmin : min (s.idle + 1) s.config.tSilence = s.idle + 1 := by omega
      have hstep := (tickCountsAndAbandons s _ hw hops).2 (.inr (.inl (by omega)))
      rw [hmin] at hstep
      rw [runSteps_succ hstep]
      exact ih hw ha hlen (by simp only; omega) rfl

/-- Settles O22: the `Tick`s abandon the frame, at the latest with the last of them. -/
theorem silenceEndsTheWait : Obligations.SilenceEndsTheWait := by
  intro s hinv ha hlen hops
  obtain ⟨hw, -, -, -, hpending, -⟩ := hinv
  have hquiet : s.tmo = false := by
    cases ht : s.tmo with
    | false => rfl
    | true => exact absurd ((hpending ht).symm.trans ha) (by decide)
  obtain ⟨n, hn⟩ := Nat.exists_eq_add_of_le' (Config.one_le_tSilence hw)
  rw [hn] at hops
  have hlength : s.ops.length = (n + 1) + 1 := by simp [hops]
  rw [hlength, runSteps_add (runSteps_tick_waiting hw ha hlen (by omega) hops), runSteps_one]
  refine Eq.trans (step_poll_of_timeout hw rfl rfl) ?_
  rw [hquiet]

end Sys2Proof.Machine

/-! The Register Store and the reads (43_register_store.md, 44_read_functions.md): when the matcher
succeeds, how a list of descriptors is resolved, and what the four reads answer. -/

namespace Sys2Proof.Machine

/-! ## The matcher -/

/-- The matcher succeeds when the four checks pass and the walk does (43_register_store.md R152 to R159). -/
theorem matchSpan_eq_ok_iff {ds span : List Descriptor} {k : Kind} {s n : Nat} :
    matchSpan ds k s n = .ok span ↔ s + n < 65535 ∧ ∃ first last, ds.head? = some first ∧
      ds.getLast? = some last ∧ first.location.toNat ≤ s ∧ s + n ≤ last.location.toNat + 1 ∧
      if n = 0 then span = [] else walkSpan k s n (ds.dropWhile fun d => d.location.toNat != s) = .ok span := by
  unfold matchSpan
  by_cases hbound : s + n ≥ 65535
  · simp [hbound]
  · rw [if_neg hbound]
    cases hfirst : ds.head? with
    | none => simp
    | some first =>
      cases hlast : ds.getLast? with
      | none => simp
      | some last =>
        simp only [Option.some.injEq, exists_and_left, exists_eq_left']
        by_cases habove : s + n > last.location.toNat + 1
        · simp [habove]
        · rw [if_neg habove]
          by_cases hunder : s < first.location.toNat
          · simp [hunder]
          · rw [if_neg hunder]
            have hchecks : s + n < 65535 ∧ first.location.toNat ≤ s ∧ s + n ≤ last.location.toNat + 1 := by omega
            split <;> simp [hchecks, eq_comm]

/-- What the matcher selects are descriptors of the device, in their order. -/
theorem matchSpan_sublist {ds span : List Descriptor} {k : Kind} {s n : Nat}
    (h : matchSpan ds k s n = .ok span) : span.Sublist ds := by
  obtain ⟨-, first, last, -, -, -, -, hwalk⟩ := matchSpan_eq_ok_iff.1 h
  split at hwalk
  · rw [hwalk]; exact List.nil_sublist ds
  · obtain ⟨hspan, -, -⟩ := walkSpan_ok _ _ _ _ _ hwalk
    rw [hspan]
    exact (List.take_sublist _ _).trans (List.dropWhile_sublist _)

/-- The walk succeeds where the descriptors ascend from its start on and each location has one of the kind. -/
theorem walkSpan_of_cells {k : Kind} {n loc : Nat} {ds : List Descriptor}
    (hasc : ds.Pairwise fun a b => a.location.toNat < b.location.toNat)
    (hfrom : ∀ c ∈ ds, loc ≤ c.location.toNat)
    (hcells : ∀ i, i < n → ∃ c ∈ ds, c.location.toNat = loc + i ∧ c.kind = k) :
    ∃ span, walkSpan k loc n ds = .ok span := by
  induction n generalizing loc ds with
  | zero => exact ⟨[], by simp [walkSpan]⟩
  | succ n ih =>
    obtain ⟨c, hc, hloc, hkind⟩ := hcells 0 (by omega)
    obtain _ | ⟨d, ds⟩ := ds
    · simp at hc
    · rw [List.pairwise_cons] at hasc
      obtain ⟨hd, hasc⟩ := hasc
      have hdloc := hfrom d List.mem_cons_self
      obtain rfl : c = d := by
        rcases List.mem_cons.1 hc with rfl | hmem
        · rfl
        · have := hd c hmem
          omega
      obtain ⟨span, hspan⟩ := ih (loc := loc + 1) hasc (fun e he => by have := hd e he; omega) (fun i hi => by
        obtain ⟨e, he, heloc, hekind⟩ := hcells (i + 1) (by omega)
        rcases List.mem_cons.1 he with rfl | hmem
        · omega
        · exact ⟨e, hmem, by omega, hekind⟩)
      exact ⟨c :: span, by simp [walkSpan, hloc, hkind, hspan]⟩

section
variable {d : Device} {k : Kind}

/-- From a configured location on, the descriptors of an ascending device are those at or above it. -/
theorem Device.mem_dropWhile {c e : Descriptor} (ha : d.ascending = true) (hc : c ∈ d.registers) :
    e ∈ (d.registers.dropWhile fun r => r.location.toNat != c.location.toNat) ↔
      e ∈ d.registers ∧ c.location.toNat ≤ e.location.toNat := by
  obtain ⟨after, hafter⟩ := Device.dropWhile_to_location ha hc
  have hpair := Device.ascending_iff.1 ha
  rw [← List.takeWhile_append_dropWhile (p := fun r => r.location.toNat != c.location.toNat)
    (l := d.registers), hafter, List.pairwise_append, List.pairwise_cons] at hpair
  obtain ⟨-, ⟨hhead, -⟩, hbefore⟩ := hpair
  constructor
  · intro he
    refine ⟨(List.dropWhile_sublist _).subset he, ?_⟩
    rw [hafter] at he
    rcases List.mem_cons.1 he with rfl | hmem
    · exact Nat.le_refl _
    · exact Nat.le_of_lt (hhead e hmem)
  · rintro ⟨he, hle⟩
    rw [← List.takeWhile_append_dropWhile (p := fun r => r.location.toNat != c.location.toNat)
      (l := d.registers), List.mem_append] at he
    refine he.resolve_left fun htake => ?_
    have := hbefore e htake c List.mem_cons_self
    omega

/-- Settles O28: success gives the cells; for the converse, the first and the last cell pass checks 2 and 3,
and the walk starts at the first. -/
theorem matcherSucceedsExactlyOnReadableSpans : Obligations.MatcherSucceedsExactlyOnReadableSpans := by
  intro d k s n ha
  by_cases hn : n = 0
  · subst hn
    simp [matchSpan_eq_ok_iff, Readable]
  · constructor
    · rintro ⟨span, h⟩
      obtain ⟨hbound, hlen, hmem, hcells⟩ := matchSpan_ok _ _ _ _ _ h
      refine ⟨hbound, ?_⟩
      rw [if_neg hn]
      intro i hi
      have hget := List.getElem?_eq_getElem (show i < span.length by omega)
      obtain ⟨hloc, hkind⟩ := hcells i _ hget
      exact ⟨_, hmem _ (List.getElem_mem _), hloc, hkind⟩
    · rintro ⟨hbound, hcells⟩
      rw [if_neg hn] at hcells
      obtain ⟨c, hc, hloc, -⟩ := hcells 0 (by omega)
      obtain ⟨e, he, heloc, -⟩ := hcells (n - 1) (by omega)
      have hfirst := Device.head_location_le ha hc
      have hlast := Device.location_le_getLast ha he
      rw [Nat.add_zero] at hloc
      rw [matchSpan_eq_walkSpan (List.ne_nil_of_mem hc) hbound (by omega) (by omega) hn, ← hloc]
      refine walkSpan_of_cells ((Device.ascending_iff.1 ha).sublist (List.dropWhile_sublist _)) ?_ ?_
      · exact fun e he => ((Device.mem_dropWhile ha hc).1 he).2
      · intro i hi
        obtain ⟨e, he, heloc, hekind⟩ := hcells i hi
        exact ⟨e, (Device.mem_dropWhile ha hc).2 ⟨he, by omega⟩, by omega, hekind⟩

end

end Sys2Proof.Machine

/-! The resolution of descriptors (43_register_store.md section 2), the packing of values
(44_read_functions.md R174, R176), and what the four reads and the exception replies answer. -/

namespace Sys2Proof.Machine

/-! ## Lists of descriptors -/

/-- Resolving a descriptor moves on by one answer if it is `Random`, else by none. -/
theorem answerAt_resolve (d : Descriptor) (s : State) (j : Nat) :
    (resolve d s).2.answerAt j = s.answerAt ((if d.valueMode = .random then 1 else 0) + j) := by
  rw [resolve_state]
  split
  · rw [State.answerAt_afterDraw, Nat.add_comm]
  · rw [Nat.zero_add]

theorem resolve_config (d : Descriptor) (s : State) : (resolve d s).2.config = s.config := by
  rw [resolve_frame]

/-- A `Random` descriptor takes the next answer where that is lawful (43_register_store.md R162). -/
theorem resolve_random {d : Descriptor} (s : State) (hm : d.valueMode = .random)
    (hmin : d.min.toNat ≤ s.rawAnswer.toNat) (hmax : s.rawAnswer.toNat ≤ d.max.toNat) :
    (resolve d s).1 = s.rawAnswer := by
  simp [resolve, hm, foldInto_self _ _ _ hmin hmax]

theorem resolveAll_inOrder (cells : List Descriptor) (s : State) (hok : ∀ c ∈ cells, c.rangeOk = true) :
    ResolvesInOrder s cells (resolveAll cells s).1 := by
  refine ⟨resolveAll_length cells s, ?_⟩
  induction cells generalizing s with
  | nil => simp
  | cons d cells ih =>
    intro i c v hc hv
    cases i with
    | zero =>
      obtain rfl : d = c := by simpa using hc
      obtain rfl : (resolve d s).1 = v := by simpa [resolveAll] using hv
      refine ⟨resolve_mayResolve d s (hok d List.mem_cons_self), fun hm => ?_⟩
      simpa using resolve_random s hm
    | succ i =>
      have hrest := ih (resolve d s).2 (fun c hc => hok c (List.mem_cons_of_mem d hc)) i c v
        (by simpa using hc) (by simpa [resolveAll] using hv)
      rw [resolve_config, answerAt_resolve, ← drawsAmong_cons] at hrest
      exact hrest

theorem resolveAll_draws (cells : List Descriptor) (s : State) :
    DrawsOnceEach cells s (resolveAll cells s).2 := by
  induction cells generalizing s with
  | nil => simp [DrawsOnceEach, resolveAll]
  | cons d cells ih =>
    obtain ⟨hanswers, hdrawn⟩ := ih (resolve d s).2
    rw [resolve_state] at hanswers hdrawn
    rw [DrawsOnceEach, drawsAmong_cons, resolveAll]
    simp only [resolve_state, hanswers, hdrawn]
    split
    · simp [Nat.add_assoc, Nat.add_comm]
    · simp

/-- Settles O34. -/
theorem randomDrawsAFreshAnswer : Obligations.RandomDrawsAFreshAnswer := by
  refine ⟨fun d s hok => ⟨fun hm => ?_, fun hm => by simp [resolve, hm]⟩,
    fun cells s hok => ⟨resolveAll_inOrder cells s hok, resolveAll_draws cells s, resolveAll_frame cells s⟩⟩
  have hmay := resolve_mayResolve d s hok
  simp only [MayResolve, hm] at hmay
  refine ⟨hmay.1, hmay.2, by rw [resolve_state, if_pos hm, State.afterDraw], fun v rest hv hmin hmax => ?_⟩
  have hraw : s.rawAnswer = v := by simp [State.rawAnswer, hv]
  rw [← hraw] at hmin hmax ⊢
  exact resolve_random s hm hmin hmax

/-! ## Packing -/

theorem getLsbD_highBit_shifted (i m : Nat) : (0x80#8 >>> i).getLsbD m = decide (i + m = 7) := by
  have htop : 0x80#8 = BitVec.twoPow 8 7 := by decide
  rw [BitVec.getLsbD_ushiftRight, htop, BitVec.getLsbD_twoPow]
  simp [eq_comm]

/-- Value `j` of the eight stands in bit `7 - j`, a missing value as 0 (44_read_functions.md R174). -/
theorem packByte_getLsbD (bits : List Bool) {j : Nat} (hj : j < 8) :
    (packByte bits).getLsbD (7 - j) = bits.getD j false := by
  have hfold : ∀ n ≤ 8, ((List.range n).foldl
      (fun acc i => if bits.getD i false then acc ||| (0x80#8 >>> i) else acc) 0#8).getLsbD (7 - j) =
        (decide (j < n) && bits.getD j false) := by
    intro n hn
    induction n with
    | zero => simp
    | succ n ih =>
      rw [List.range_succ, List.foldl_append, List.foldl_cons, List.foldl_nil]
      specialize ih (by omega)
      by_cases hjn : j = n
      · subst hjn
        cases hb : bits.getD j false with
        | true => simp [BitVec.getLsbD_or, show j + (7 - j) = 7 by omega]
        | false => simpa [hb] using ih
      · have hlt : (j < n + 1) = (j < n) := by simp only [eq_iff_iff]; omega
        simp only [hlt, ← ih]
        split
        · rw [BitVec.getLsbD_or, getLsbD_highBit_shifted, decide_eq_false (by omega), Bool.or_false]
        · rfl
  rw [packByte, hfold 8 (by decide), decide_eq_true hj, Bool.true_and]

theorem packBits_packs (values : List Word) : PacksBits values (packBits values values.length) := by
  refine ⟨by simp [packBits], fun g j hg hj => ?_⟩
  have hlen : g < (values.length + 7) / 8 := by simpa [packBits] using hg
  have hbyte : (packBits values values.length).getD g 0#8 = packByte ((values.map coilBit).drop (8 * g)) := by
    simp [packBits, hlen]
  rw [hbyte, packByte_getLsbD _ hj]
  simp only [List.getD_eq_getElem?_getD, List.getElem?_drop, List.getElem?_map]
  by_cases hin : 8 * g + j < values.length
  · simp [hin, coilBit, bne, beq_eq_decide]
  · simp [hin]

theorem packRegs_packs (values : List Word) : PacksRegs values (packRegs values) := by
  induction values with
  | nil => simp [PacksRegs, packRegs]
  | cons v values ih =>
    obtain ⟨hlen, hbytes⟩ := ih
    have hcons : packRegs (v :: values) = hi8 v :: lo8 v :: packRegs values := by simp [packRegs]
    rw [hcons]
    refine ⟨by simp only [List.length_cons, hlen]; omega, fun i w hw => ?_⟩
    cases i with
    | zero =>
      obtain rfl : v = w := by simpa using hw
      exact ⟨rfl, rfl⟩
    | succ i => exact hbytes i w (by simpa using hw)

end Sys2Proof.Machine

/-! What an instruction answers when its device is found and its checksum is right (44_read_functions.md,
46_unsupported_and_multiwrite.md), and what it answers when the checksum is wrong (42_dispatcher.md R136). -/

namespace Sys2Proof.Machine

/-! ## Exception replies -/

theorem finishReply_of_appendsChecksum {f : Byte} (h : appendsChecksum f = true) (r : List Byte) :
    finishReply f r = withChecksum r := by
  simp [finishReply, h, appendCrc, crcBytes, withChecksum]

theorem appendsChecksum_iff (f : Byte) : appendsChecksum f = true ↔ f ≠ 5#8 ∧ f ≠ 6#8 := by
  simp [appendsChecksum]

section
variable {i : Instr} {s : State} {d : Device} (hw : s.config.wf = true) (hintact : Intact i)
  (hsel : Selected s.config i.address d) (hcode : appendsChecksum i.functionCode = true)
include hw hintact hsel hcode

/-- An intact instruction for a configured device answers with what `Respond` makes and its checksum. -/
theorem exec_of_selected : exec i s = .next ((respondOf i d s.leaveCrc).2.conclude .packageOk
    (withChecksum (respondOf i d s.leaveCrc).1)) := by
  rw [exec_of_answered hw ((selected_iff_findDevice _ _ _).1 hsel) ((intact_iff_checksumValid i).1 hintact),
    finishReply_of_appendsChecksum hcode]

/-- Where `Respond` makes the reply `r` and draws nothing, only the reply changes. -/
theorem exec_of_reply {r : List Byte} (hreply : ∀ u, respondOf i d u = (r, u)) :
    ∃ t, exec i s = .next t ∧ OnlyReplyChanged s t ∧ t.result = .packageOk ∧ t.resp = withChecksum r := by
  refine ⟨_, exec_of_selected hw hintact hsel hcode, ?_, rfl, ?_⟩
  · rw [hreply]
    rfl
  · rw [State.conclude_resp, hreply]

end

/-- Settles O38: the three instructions respond with exception code 1, and none has function code 5 or 6. -/
theorem unsupportedFunctionsAnswerExceptionOne : Obligations.UnsupportedFunctionsAnswerExceptionOne := by
  intro s a d hw hsel
  refine ⟨fun start quantity payload lo hi hintact => exec_of_reply hw hintact hsel rfl fun _ => rfl,
    fun start quantity payload lo hi hintact => exec_of_reply hw hintact hsel rfl fun _ => rfl,
    fun f p0 p1 p2 p3 lo hi hwf hintact => exec_of_reply hw hintact hsel ?_ fun _ => rfl⟩
  obtain ⟨-, -, -, -, h5, h6, -, -⟩ := (isUnsupportedCode_iff f).1 hwf
  exact (appendsChecksum_iff f).2 ⟨h5, h6⟩

/-! ## Reads -/

/-- What may change when only the reply does may change all the more when draws may be made too. -/
theorem OnlyReplyChanged.withDraws {s t : State} (h : OnlyReplyChanged s t) : OnlyReplyAndDrawsChanged s t := by
  rw [OnlyReplyChanged] at h
  rw [OnlyReplyAndDrawsChanged, h]

section
variable {ds : List Descriptor} {k : Kind} {a f : Byte} {start n : Word} {d : Device} {s : State}

theorem readValues_of_span {span : List Descriptor} {start n : Nat} (h : matchSpan ds k start n = .ok span) :
    readValues ds k start n s = (.ok (resolveAll span s).1, (resolveAll span s).2) := by
  simp [readValues, h]

/-- A span without its cells is a failure of the matcher, which has one only. -/
theorem matchSpan_of_unreadable {start n : Nat} (ha : d.ascending = true) (h : ¬ Readable d k start n) :
    matchSpan d.registers k start n = .error .noSuchRegistry := by
  rw [← matcherSucceedsExactlyOnReadableSpans d k start n ha] at h
  cases hm : matchSpan d.registers k start n with
  | ok span => exact absurd ⟨span, hm⟩ h
  | error e => rfl

theorem readBits_of_span {span : List Descriptor} (h : matchSpan d.registers k start.toNat n.toNat = .ok span) :
    readBits a f k start n d s = ([a, f, BitVec.ofNat 8 ((n.toNat + 7) / 8)] ++
      packBits (resolveAll span s).1 n.toNat, (resolveAll span s).2) := by
  simp [readBits, readValues_of_span h]

theorem readRegs_of_span {span : List Descriptor} (h : matchSpan d.registers k start.toNat n.toNat = .ok span) :
    readRegs a f k start n d s = ([a, f, BitVec.ofNat 8 (2 * n.toNat)] ++
      packRegs (resolveAll span s).1, (resolveAll span s).2) := by
  simp [readRegs, readValues_of_span h]

theorem readBits_of_error (h : matchSpan d.registers k start.toNat n.toNat = .error .noSuchRegistry) :
    readBits a f k start n d s = (exceptionReply a f illegalDataAddress, s) := by
  simp [readBits, readValues, h]

theorem readRegs_of_error (h : matchSpan d.registers k start.toNat n.toNat = .error .noSuchRegistry) :
    readRegs a f k start n d s = (exceptionReply a f illegalDataAddress, s) := by
  simp [readRegs, readValues, h]

end

theorem Selected.mem {c : Config} {a : Byte} {d : Device} (h : Selected c a d) : d ∈ c.devices :=
  (findDevice_some _ _ _ ((selected_iff_findDevice _ _ _).1 h)).1

section
variable {i : Instr} {s : State} {d : Device} {k : Kind} {start n : Nat} (hw : s.config.wf = true)
  (hintact : Intact i) (hsel : Selected s.config i.address d) (hcode : appendsChecksum i.functionCode = true)
include hw hintact hsel hcode

/-- An intact read of readable cells resolves each cell once, in order, and answers with `reply` of the
values and the checksum (44_read_functions.md R172). -/
theorem exec_of_readable {reply : List Word → List Byte} (hread : Readable d k start n)
    (hreply : ∀ span u, matchSpan d.registers k start n = .ok span →
      respondOf i d u = (reply (resolveAll span u).1, (resolveAll span u).2)) :
    ∃ t cells values, exec i s = .next t ∧ OnlyReplyAndDrawsChanged s t ∧ t.result = .packageOk ∧
      SpanCells d k start n cells ∧ ResolvesInOrder s cells values ∧ DrawsOnceEach cells s t ∧
      values.length = n ∧ t.resp = withChecksum (reply values) := by
  have hasc := Config.wf_ascending hw hsel.mem
  obtain ⟨span, hspan⟩ := (matcherSucceedsExactlyOnReadableSpans d k start n hasc).2 hread
  obtain ⟨-, hlen, hmem, hcells⟩ := matchSpan_ok _ _ _ _ _ hspan
  have hexec := exec_of_selected hw hintact hsel hcode
  rw [hreply span _ hspan] at hexec
  have hok : ∀ c ∈ span, c.rangeOk = true := fun c hc => Config.wf_rangeOk hw hsel.mem (hmem c hc)
  refine ⟨_, span, (resolveAll span s.leaveCrc).1, hexec, ?_, rfl, ⟨hlen, fun j c hj => ?_⟩,
    resolveAll_inOrder span s.leaveCrc hok, resolveAll_draws span s.leaveCrc, ?_, rfl⟩
  · rw [resolveAll_frame]
    rfl
  · exact ⟨hmem c (List.mem_of_getElem? hj), hcells j c hj⟩
  · rw [resolveAll_length, hlen]

/-- A read of bits whose cells are not all there answers with exception code 2 (44_read_functions.md R172). -/
theorem exec_of_unreadable {r : List Byte} (hread : ¬ Readable d k start n)
    (hreply : matchSpan d.registers k start n = .error .noSuchRegistry → ∀ u, respondOf i d u = (r, u)) :
    ∃ t, exec i s = .next t ∧ OnlyReplyAndDrawsChanged s t ∧ t.result = .packageOk ∧ t.resp = withChecksum r := by
  have hfail := matchSpan_of_unreadable (Config.wf_ascending hw hsel.mem) hread
  obtain ⟨t, hexec, hframe, hresult, hresp⟩ := exec_of_reply hw hintact hsel hcode (hreply hfail)
  exact ⟨t, hexec, hframe.withDraws, hresult, hresp⟩

end

section
variable {i : Instr} {s : State} {d : Device} {k : Kind} {start n : Word} {a f : Byte} (hw : s.config.wf = true)
  (hintact : Intact i) (hsel : Selected s.config i.address d) (hcode : appendsChecksum i.functionCode = true)
  (hread : Readable d k start.toNat n.toNat)
include hw hintact hsel hcode hread

theorem exec_of_readBits (hrespond : respondOf i = readBits a f k start n) :
    ∃ t cells values data, exec i s = .next t ∧ OnlyReplyAndDrawsChanged s t ∧ t.result = .packageOk ∧
      SpanCells d k start.toNat n.toNat cells ∧ ResolvesInOrder s cells values ∧ DrawsOnceEach cells s t ∧
      PacksBits values data ∧
      t.resp = withChecksum ([a, f, BitVec.ofNat 8 ((n.toNat + 7) / 8)] ++ data) := by
  obtain ⟨t, cells, values, hexec, hframe, hresult, hcells, horder, hdraws, hlen, hresp⟩ :=
    exec_of_readable hw hintact hsel hcode hread
      (reply := fun values => [a, f, BitVec.ofNat 8 ((n.toNat + 7) / 8)] ++ packBits values n.toNat)
      (fun span u hspan => by rw [hrespond, readBits_of_span hspan])
  exact ⟨t, cells, values, _, hexec, hframe, hresult, hcells, horder, hdraws, hlen ▸ packBits_packs values, hresp⟩

theorem exec_of_readRegs (hrespond : respondOf i = readRegs a f k start n) :
    ∃ t cells values data, exec i s = .next t ∧ OnlyReplyAndDrawsChanged s t ∧ t.result = .packageOk ∧
      SpanCells d k start.toNat n.toNat cells ∧ ResolvesInOrder s cells values ∧ DrawsOnceEach cells s t ∧
      PacksRegs values data ∧
      t.resp = withChecksum ([a, f, BitVec.ofNat 8 (2 * n.toNat)] ++ data) := by
  obtain ⟨t, cells, values, hexec, hframe, hresult, hcells, horder, hdraws, -, hresp⟩ :=
    exec_of_readable hw hintact hsel hcode hread
      (reply := fun values => [a, f, BitVec.ofNat 8 (2 * n.toNat)] ++ packRegs values)
      (fun span u hspan => by rw [hrespond, readRegs_of_span hspan])
  exact ⟨t, cells, values, _, hexec, hframe, hresult, hcells, horder, hdraws, packRegs_packs values, hresp⟩

end

/-- Settles O29. -/
theorem bitReadsAnswerTheirCells : Obligations.BitReadsAnswerTheirCells :=
  fun _ _ _ _ _ _ _ hw hsel => ⟨fun hintact hread => exec_of_readBits hw hintact hsel rfl hread rfl,
    fun hintact hread => exec_of_readBits hw hintact hsel rfl hread rfl⟩

/-- Settles O30. -/
theorem registerReadsAnswerTheirCells : Obligations.RegisterReadsAnswerTheirCells :=
  fun _ _ _ _ _ _ _ hw hsel => ⟨fun hintact hread => exec_of_readRegs hw hintact hsel rfl hread rfl,
    fun hintact hread => exec_of_readRegs hw hintact hsel rfl hread rfl⟩

/-- Settles O31: each read responds with exception code 2 where the matcher fails. -/
theorem unreadableSpansAnswerExceptionTwo : Obligations.UnreadableSpansAnswerExceptionTwo :=
  fun _ _ _ _ _ _ _ hw hsel =>
    ⟨fun hintact hread => exec_of_unreadable hw hintact hsel rfl hread fun hfail _ => readBits_of_error hfail,
     fun hintact hread => exec_of_unreadable hw hintact hsel rfl hread fun hfail _ => readBits_of_error hfail,
     fun hintact hread => exec_of_unreadable hw hintact hsel rfl hread fun hfail _ => readRegs_of_error hfail,
     fun hintact hread => exec_of_unreadable hw hintact hsel rfl hread fun hfail _ => readRegs_of_error hfail⟩

/-! ## A wrong checksum -/

/-- The checksum test by the last two bytes (40_crc_engine.md R104). -/
theorem checksumValid_iff_getD {f : List Byte} (hf : 2 ≤ f.length) :
    checksumValid f = true ↔
      f.getD (f.length - 2) 0#8 = lo8 (crc16 (f.take (f.length - 2))) ∧
        f.getD (f.length - 1) 0#8 = hi8 (crc16 (f.take (f.length - 2))) := by
  obtain ⟨body, x, y, rfl⟩ := exists_append_two hf
  simp [checksumValid, crcBytes]

/-- Settles O25. -/
theorem corruptedFrameIsIgnored : Obligations.CorruptedFrameIsIgnored := by
  intro i s hw hdevice hbad
  have hinvalid : checksumValid (encode i) = false := by
    rw [← Bool.not_eq_true, checksumValid_iff_getD (Nat.le_trans (by decide) (encode_length_ge i))]
    exact hbad
  cases hfound : findDevice s.config.devices i.address with
  | none =>
    obtain ⟨d, hd, haddress⟩ := hdevice
    exact absurd haddress ((findDevice_none_iff _ _).1 hfound d hd)
  | some d => exact ⟨_, exec_of_corrupted hw hfound hinvalid, onlyReplyChanged_leaveCrc_conclude .., rfl, rfl⟩

end Sys2Proof.Machine

/-! What an instruction's answer is made of: its first bytes and its length, what the instruction leaves
unchanged, and what the answer does not depend on (30_encoding.md section 3, 44_read_functions.md section 3,
45_write_single.md). -/

namespace Sys2Proof.Machine

/-! ## The reply -/

section
variable (a f : Byte) (k : Kind) (start n : Word) (d : Device) (s : State)

/-- A read of bits fails with exception code 2 and draws nothing, or packs the values of a span. -/
theorem readBits_cases :
    readBits a f k start n d s = (exceptionReply a f illegalDataAddress, s) ∨
    ∃ span, matchSpan d.registers k start.toNat n.toNat = .ok span ∧
      readBits a f k start n d s = ([a, f, BitVec.ofNat 8 ((n.toNat + 7) / 8)] ++
        packBits (resolveAll span s).1 n.toNat, (resolveAll span s).2) := by
  cases h : matchSpan d.registers k start.toNat n.toNat with
  | ok span => exact .inr ⟨span, rfl, readBits_of_span h⟩
  | error e => exact .inl (readBits_of_error h)

/-- A read of registers fails with exception code 2 and draws nothing, or lists the values of a span. -/
theorem readRegs_cases :
    readRegs a f k start n d s = (exceptionReply a f illegalDataAddress, s) ∨
    ∃ span, matchSpan d.registers k start.toNat n.toNat = .ok span ∧
      readRegs a f k start n d s = ([a, f, BitVec.ofNat 8 (2 * n.toNat)] ++
        packRegs (resolveAll span s).1, (resolveAll span s).2) := by
  cases h : matchSpan d.registers k start.toNat n.toNat with
  | ok span => exact .inr ⟨span, rfl, readRegs_of_span h⟩
  | error e => exact .inl (readRegs_of_error h)

end

/-- A reply that begins with the address and the function code, as asked or with the high bit set. -/
def Names (a f : Byte) (r : List Byte) : Prop :=
  ∃ g tail, r = a :: g :: tail ∧ (g = f ∨ g = f ||| 0x80#8)

theorem exceptionReply_names (a f code : Byte) : Names a f (exceptionReply a f code) :=
  ⟨_, _, rfl, .inr rfl⟩

theorem readBits_names (a f : Byte) (k : Kind) (start n : Word) (d : Device) (s : State) :
    Names a f (readBits a f k start n d s).1 := by
  rcases readBits_cases a f k start n d s with h | ⟨span, -, h⟩
  · rw [h]; exact exceptionReply_names a f _
  · rw [h]; exact ⟨f, _, rfl, .inl rfl⟩

theorem readRegs_names (a f : Byte) (k : Kind) (start n : Word) (d : Device) (s : State) :
    Names a f (readRegs a f k start n d s).1 := by
  rcases readRegs_cases a f k start n d s with h | ⟨span, -, h⟩
  · rw [h]; exact exceptionReply_names a f _
  · rw [h]; exact ⟨f, _, rfl, .inl rfl⟩

theorem respondOf_names (i : Instr) (d : Device) (s : State) :
    Names i.address i.functionCode (respondOf i d s).1 := by
  cases i
  case rdcoil => exact readBits_names ..
  case rddisc => exact readBits_names ..
  case rdhold => exact readRegs_names ..
  case rdinp => exact readRegs_names ..
  case wrcoil => exact ⟨_, _, rfl, .inl rfl⟩
  case wrreg => exact ⟨_, _, rfl, .inl rfl⟩
  all_goals exact exceptionReply_names ..

/-- The final bytes are the reply's, with or without a checksum after them. -/
theorem finishReply_names {a f g : Byte} {r : List Byte} (h : Names a f r) : Names a f (finishReply g r) := by
  obtain ⟨c, tail, rfl, hc⟩ := h
  unfold finishReply
  split
  · exact ⟨c, tail ++ crcBytes (a :: c :: tail), rfl, hc⟩
  · exact ⟨c, tail, rfl, hc⟩

/-- Settles O27: only the third outcome is `PackageOk`, and its reply is `Respond`'s. -/
theorem replyNamesAddressAndFunction : Obligations.ReplyNamesAddressAndFunction := by
  intro i s t h hok
  obtain ⟨-, ⟨-, rfl⟩ | ⟨d, -, -, rfl⟩ | ⟨d, -, -, rfl⟩⟩ := exec_cases h
  · simp at hok
  · simp at hok
  · obtain ⟨g, tail, hreply, hg⟩ := finishReply_names (g := i.functionCode) (respondOf_names i d s.leaveCrc)
    rw [State.conclude_resp, hreply]
    exact ⟨rfl, hg⟩

/-! ## What an instruction changes -/

/-- Only the four reads touch the value source (20_memory.md R61). -/
theorem respondOf_state_of_no_read {i : Instr} (hi : i.functionCode ∉ [1#8, 2#8, 3#8, 4#8]) (d : Device)
    (s : State) : (respondOf i d s).2 = s := by
  cases i
  case rdcoil => simp [Instr.functionCode] at hi
  case rddisc => simp [Instr.functionCode] at hi
  case rdhold => simp [Instr.functionCode] at hi
  case rdinp => simp [Instr.functionCode] at hi
  all_goals rfl

/-- Settles O39. -/
theorem instructionsChangeOnlyTheReply : Obligations.InstructionsChangeOnlyTheReply := by
  intro i s t h
  refine ⟨exec_frame h, fun hi => ?_⟩
  obtain ⟨-, ⟨-, rfl⟩ | ⟨d, -, -, rfl⟩ | ⟨d, -, -, rfl⟩⟩ := exec_cases h
  · rfl
  · rfl
  · rw [respondOf_state_of_no_read hi]
    rfl

/-! ## Independence of the state -/

section
variable {s u : State} (hc : s.config = u.config)
include hc

theorem resolve_value_congr {c : Descriptor} (hm : c.valueMode ≠ .random) :
    (resolve c s).1 = (resolve c u).1 := by
  unfold resolve
  cases hmode : c.valueMode with
  | fixed => rfl
  | random => exact absurd hmode hm
  | externalRead => exact congrArg Config.extReadConst hc

theorem resolveAll_values_congr {cells : List Descriptor} (hfixed : ∀ c ∈ cells, c.valueMode ≠ .random) :
    (resolveAll cells s).1 = (resolveAll cells u).1 := by
  induction cells with
  | nil => rfl
  | cons c cells ih =>
    have hm := hfixed c List.mem_cons_self
    simp only [resolveAll, resolve_state, if_neg hm]
    rw [resolve_value_congr hc hm, ih fun e he => hfixed e (List.mem_cons_of_mem c he)]

/-- Without `Random` descriptors what a device responds depends on the configuration alone. -/
theorem respondOf_reply_congr (i : Instr) {d : Device} (hfixed : ∀ c ∈ d.registers, c.valueMode ≠ .random) :
    (respondOf i d s).1 = (respondOf i d u).1 := by
  have hvalues : ∀ {k st n span}, matchSpan d.registers k st n = .ok span →
      (resolveAll span s).1 = (resolveAll span u).1 := fun hspan =>
    resolveAll_values_congr hc fun c hmem => hfixed c ((matchSpan_sublist hspan).subset hmem)
  have hbits : ∀ a f k st n, (readBits a f k st n d s).1 = (readBits a f k st n d u).1 := by
    intro a f k st n
    cases h : matchSpan d.registers k st.toNat n.toNat with
    | ok span => rw [readBits_of_span h, readBits_of_span h, hvalues h]
    | error e => rw [readBits_of_error h, readBits_of_error h]
  have hregs : ∀ a f k st n, (readRegs a f k st n d s).1 = (readRegs a f k st n d u).1 := by
    intro a f k st n
    cases h : matchSpan d.registers k st.toNat n.toNat with
    | ok span => rw [readRegs_of_span h, readRegs_of_span h, hvalues h]
    | error e => rw [readRegs_of_error h, readRegs_of_error h]
  cases i
  case rdcoil => exact hbits ..
  case rddisc => exact hbits ..
  case rdhold => exact hregs ..
  case rdinp => exact hregs ..
  all_goals rfl

end

/-- Settles O35: address match and checksum test are the same in both states, and so is the response. -/
theorem replyDependsOnConfigurationAlone : Obligations.ReplyDependsOnConfigurationAlone := by
  intro i s u t v hc hfixed h h'
  have hw : s.config.wf = true := (exec_cases h).1
  have hw' : u.config.wf = true := hc ▸ hw
  cases hd : findDevice s.config.devices i.address with
  | none =>
    rw [exec_of_unmatched hw hd] at h
    rw [exec_of_unmatched hw' (hc ▸ hd)] at h'
    cases h; cases h'; rfl
  | some d =>
    obtain ⟨hmem, haddress⟩ := findDevice_some _ _ _ hd
    cases hv : checksumValid (encode i) with
    | false =>
      rw [exec_of_corrupted hw hd hv] at h
      rw [exec_of_corrupted hw' (hc ▸ hd) hv] at h'
      cases h; cases h'; rfl
    | true =>
      rw [exec_of_answered hw hd hv] at h
      rw [exec_of_answered hw' (hc ▸ hd) hv] at h'
      have hreply := respondOf_reply_congr (s := s.leaveCrc) (u := u.leaveCrc) hc i (hfixed d hmem haddress)
      cases h; cases h'
      simp [State.observed, hreply]

/-! ## Independence of the descriptors' lengths -/

end Sys2Proof.Machine

namespace Sys2Proof

/-- A descriptor, a device and a configuration with other lengths (93_implementation_defined.md U3). -/
def Descriptor.withLength (f : Descriptor → Nat) (r : Descriptor) : Descriptor := { r with length := f r }

def Device.withLengths (f : Descriptor → Nat) (d : Device) : Device :=
  { d with registers := d.registers.map (Descriptor.withLength f) }

def Config.withLengths (f : Descriptor → Nat) (c : Config) : Config :=
  { c with devices := c.devices.map (Device.withLengths f) }

end Sys2Proof

namespace Sys2Proof.Machine

section
variable (f : Descriptor → Nat)

theorem Config.withLengths_wf (c : Config) : (Config.withLengths f c).wf = c.wf := by
  have hasc : ∀ d : Device, (d.withLengths f).ascending = d.ascending := fun d => by
    simp [Device.withLengths, Device.ascending, List.pairwise_map, Descriptor.withLength]
  have hrange : ∀ d : Device, (d.withLengths f).registers.all Descriptor.rangeOk =
      d.registers.all Descriptor.rangeOk := fun d => by
    rw [Device.withLengths, List.all_map]
    rfl
  have hdevices : (c.withLengths f).devices.all (fun d => d.ascending && d.registers.all Descriptor.rangeOk) =
      c.devices.all (fun d => d.ascending && d.registers.all Descriptor.rangeOk) := by
    rw [Config.withLengths, List.all_map]
    simp only [Function.comp_def, hasc, hrange]
  unfold Config.wf
  rw [hdevices]
  rfl

theorem walkSpan_withLength (k : Kind) (n loc : Nat) (ds : List Descriptor) :
    walkSpan k loc n (ds.map (Descriptor.withLength f)) =
      (walkSpan k loc n ds).map (List.map (Descriptor.withLength f)) := by
  induction n generalizing loc ds with
  | zero => simp [walkSpan, Except.map]
  | succ n ih =>
    cases ds with
    | nil => rfl
    | cons d ds =>
      simp only [List.map_cons, walkSpan, ih, Descriptor.withLength]
      split
      · cases walkSpan k (loc + 1) n ds <;> rfl
      · rfl

theorem matchSpan_withLength (ds : List Descriptor) (k : Kind) (s n : Nat) :
    matchSpan (ds.map (Descriptor.withLength f)) k s n =
      (matchSpan ds k s n).map (List.map (Descriptor.withLength f)) := by
  have hdrop : (ds.map (Descriptor.withLength f)).dropWhile (fun d => d.location.toNat != s) =
      (ds.dropWhile fun d => d.location.toNat != s).map (Descriptor.withLength f) := by
    rw [List.dropWhile_map]
    rfl
  unfold matchSpan
  rw [List.head?_map, List.getLast?_map, hdrop, walkSpan_withLength]
  cases ds.head? with
  | none => split <;> rfl
  | some first =>
    cases ds.getLast? with
    | none => split <;> rfl
    | some last =>
      simp only [Option.map_some, Descriptor.withLength]
      split_ifs <;> rfl

theorem resolveAll_withLength (cells : List Descriptor) (s : State) :
    resolveAll (cells.map (Descriptor.withLength f)) s = resolveAll cells s := by
  induction cells generalizing s with
  | nil => rfl
  | cons c cells ih =>
    have hc : resolve (c.withLength f) s = resolve c s := rfl
    simp only [List.map_cons, resolveAll, hc, ih]

theorem readValues_withLength (ds : List Descriptor) (k : Kind) (start n : Nat) (s : State) :
    readValues (ds.map (Descriptor.withLength f)) k start n s = readValues ds k start n s := by
  unfold readValues
  rw [matchSpan_withLength]
  cases matchSpan ds k start n with
  | ok span => simp [Except.map, resolveAll_withLength]
  | error e => rfl

theorem respondOf_withLengths (i : Instr) (d : Device) (s : State) :
    respondOf i (d.withLengths f) s = respondOf i d s := by
  have hread : ∀ k st n, readValues (d.withLengths f).registers k st n s = readValues d.registers k st n s :=
    fun k st n => readValues_withLength f d.registers k st n s
  cases i
  case rdcoil => simp only [respondOf, readBits, hread]
  case rddisc => simp only [respondOf, readBits, hread]
  case rdhold => simp only [respondOf, readRegs, hread]
  case rdinp => simp only [respondOf, readRegs, hread]
  all_goals rfl

theorem findDevice_withLengths (ds : List Device) (a : Byte) :
    findDevice (ds.map (Device.withLengths f)) a = (findDevice ds a).map (Device.withLengths f) := by
  simp [findDevice, List.find?_map, Function.comp_def, Device.withLengths]

end

/-- Settles O36: the relabelled device is found where the device was, and responds the same. -/
theorem descriptorLengthHasNoEffect : Obligations.DescriptorLengthHasNoEffect := by
  intro i s t f h
  change exec i (s.withConfig (s.config.withLengths f)) = .next (t.withConfig (s.config.withLengths f))
  have hfind := findDevice_withLengths f s.config.devices i.address
  obtain ⟨hw, hcases⟩ := exec_cases h
  rw [← Config.withLengths_wf f] at hw
  rcases hcases with ⟨hnone, rfl⟩ | ⟨d, hd, hbad, rfl⟩ | ⟨d, hd, hgood, rfl⟩
  · rw [hnone] at hfind
    exact exec_of_unmatched hw hfind
  · rw [hd] at hfind
    exact exec_of_corrupted hw hfind hbad
  · rw [hd] at hfind
    rw [exec_of_answered (s := s.withConfig (s.config.withLengths f)) hw hfind hgood, respondOf_withLengths,
      State.withConfig_leaveCrc, respondOf_withConfig (c := s.config.withLengths f) (s := s.leaveCrc) rfl,
      ← State.withConfig_conclude]
    rfl

end Sys2Proof.Machine

/-! The invariant of SI-CORE (10_state.md sections 4 and 6, 41_frame_assembler.md, 40_crc_engine.md): it
holds after reset, every operation keeps it, and under it every step gives a next state. -/

namespace Sys2Proof.Machine

/-! ## Reset -/

/-- The invariant holds wherever nothing is buffered, held, pending, counted, dropped or answered. -/
theorem inv_of_quiet {s : State} (hw : s.config.wf = true) (hquiet : s.Quiet) (hidle : s.idle = 0)
    (hovf : s.ovf = false) (hresult : s.result ≠ .packageOk) (hresp : s.resp = []) : s.Inv := by
  obtain ⟨hbuf, ha, hhold, hneed, htmo⟩ := hquiet
  refine ⟨hw, ⟨fun _ => ⟨hhold, hneed⟩, by simp [ha]⟩, by simp [State.IdleBounded, hidle],
    ⟨?_, fun _ => hovf⟩, by simp [State.TimeoutConsistent, htmo], fun _ => hresp, fun h => absurd h hresult⟩
  rw [hbuf]
  exact Config.wf_admits hw (by simp)

theorem inv_resetWith {c : Config} (hw : c.wf = true) : (State.resetWith c).Inv :=
  inv_of_quiet hw ⟨rfl, rfl, rfl, rfl, rfl⟩ rfl rfl (by simp) rfl

/-- Settles O47. -/
theorem resetHasTheInvariant : Obligations.ResetHasTheInvariant :=
  ⟨fun _ hw => inv_resetWith hw, inv_resetWith (by decide)⟩

theorem inv_doReset {s : State} (hs : s.Inv) : s.doReset.Inv :=
  inv_of_quiet hs.1 ⟨rfl, rfl, rfl, rfl, rfl⟩ rfl rfl (by simp) rfl

/-! ## A turn, Feed and Tick -/

/-- The invariant speaks of SI-CORE's own fields, which a turn leaves alone. -/
theorem inv_takeTurn {s : State} (hs : s.Inv) : s.takeTurn.Inv := by
  rw [State.takeTurn_frame]
  exact hs

theorem inv_feed {s : State} (hs : s.Inv) (b : Byte) : (s.feed b).Inv := by
  obtain ⟨hw, hasm, -, ⟨hcap, hovf⟩, htmo, hreply⟩ := hs
  rcases feed_cases b s with ⟨hroom, h⟩ | ⟨hroom, h⟩
  · rw [h]
    refine ⟨hw, hasm, Nat.zero_le _, ⟨?_, hovf⟩, htmo, hreply⟩
    rw [List.length_append, List.length_singleton]
    cases hc : s.config.bufCap with
    | unbounded => rfl
    | bytes n =>
      rw [hasRoom_bytes hc] at hroom
      simpa [Capacity.admits] using hroom
  · rw [h]
    refine ⟨hw, hasm, Nat.zero_le _, ⟨hcap, fun hc => ?_⟩, htmo, hreply⟩
    exact absurd ((hasRoom_unbounded (s := s) hc).symm.trans hroom) (by decide)

theorem inv_tick {s : State} (hs : s.Inv) : s.tick.Inv := by
  obtain ⟨hw, hasm, -, ⟨hcap, hovf⟩, htmo, hreply⟩ := hs
  rcases tick_cases s with ⟨-, h⟩ | ⟨-, h⟩
  · rw [h]
    exact ⟨hw, ⟨fun _ => ⟨rfl, rfl⟩, by simp⟩, Nat.min_le_right _ _, ⟨Config.wf_admits hw (by simp), hovf⟩,
      fun _ => rfl, hreply⟩
  · rw [h]
    exact ⟨hw, hasm, Nat.min_le_right _ _, ⟨hcap, hovf⟩, htmo, hreply⟩

/-! ## The reply -/

theorem Config.registers_length_le_nDesc {c : Config} {d : Device} (hd : d ∈ c.devices) :
    d.registers.length ≤ c.nDesc := by
  unfold Config.nDesc
  generalize c.devices = ds at hd
  induction ds with
  | nil => simp at hd
  | cons e ds ih =>
    rw [List.foldr_cons]
    rcases List.mem_cons.1 hd with rfl | hmem
    · exact Nat.le_max_left _ _
    · exact Nat.le_trans (ih hmem) (Nat.le_max_right _ _)

/-- A response that gets a checksum has 3 bytes and at most two for each descriptor. -/
theorem respondOf_length {i : Instr} (hcode : appendsChecksum i.functionCode = true) (d : Device) (s : State) :
    3 ≤ (respondOf i d s).1.length ∧ (respondOf i d s).1.length ≤ 3 + 2 * d.registers.length := by
  have hspan : ∀ {k start n span}, matchSpan d.registers k start n = .ok span → n ≤ d.registers.length := by
    intro k start n span h
    obtain ⟨-, hlen, -, -⟩ := matchSpan_ok _ _ _ _ _ h
    exact hlen ▸ (matchSpan_sublist h).length_le
  have hbits : ∀ a f k start n, 3 ≤ (readBits a f k start n d s).1.length ∧
      (readBits a f k start n d s).1.length ≤ 3 + 2 * d.registers.length := by
    intro a f k start n
    rcases readBits_cases a f k start n d s with h | ⟨span, hok, h⟩
    · simp [h, exceptionReply]
    · have := hspan hok
      simp [h, packBits]
      omega
  have hregs : ∀ a f k start n, 3 ≤ (readRegs a f k start n d s).1.length ∧
      (readRegs a f k start n d s).1.length ≤ 3 + 2 * d.registers.length := by
    intro a f k start n
    rcases readRegs_cases a f k start n d s with h | ⟨span, hok, h⟩
    · simp [h, exceptionReply]
    · obtain ⟨-, hlen, -, -⟩ := matchSpan_ok _ _ _ _ _ hok
      have hpacked := (packRegs_packs (resolveAll span s).1).1
      have := hspan hok
      rw [resolveAll_length, hlen] at hpacked
      simp [h, hpacked]
      omega
  cases i
  case rdcoil => exact hbits ..
  case rddisc => exact hbits ..
  case rdhold => exact hregs ..
  case rdinp => exact hregs ..
  case wrcoil => simp [Instr.functionCode, appendsChecksum] at hcode
  case wrreg => simp [Instr.functionCode, appendsChecksum] at hcode
  all_goals exact ⟨Nat.le_refl 3, Nat.le_add_right 3 _⟩

/-- An instruction that is no single write gets its checksum; the two that are have it in their 8 bytes. -/
theorem finishReply_of_wellFormed {i : Instr} (hi : i.wellFormed = true) (d : Device) (s : State) :
    (appendsChecksum i.functionCode = true ∧
      finishReply i.functionCode (respondOf i d s).1 = appendCrc (respondOf i d s).1) ∨
    (finishReply i.functionCode (respondOf i d s).1 = encode i ∧ (encode i).length = 8) := by
  cases hcode : appendsChecksum i.functionCode with
  | true => exact .inl ⟨rfl, finishReply_of_appendsChecksum hcode _⟩
  | false =>
    right
    rw [finishReply_of_not_appendsChecksum hcode]
    cases i
    case wrcoil => exact ⟨rfl, rfl⟩
    case wrreg => exact ⟨rfl, rfl⟩
    case unsup a f p0 p1 p2 p3 lo hi' =>
      obtain ⟨-, -, -, -, h5, h6, -, -⟩ := (isUnsupportedCode_iff f).1 hi
      exact absurd ((appendsChecksum_iff f).2 ⟨h5, h6⟩) (by simpa [Instr.functionCode] using hcode)
    all_goals simp [Instr.functionCode, appendsChecksum] at hcode

/-- Whatever an instruction's outcome, its reply is as 10_state.md R35 says. -/
theorem exec_replyConsistent {i : Instr} {s t : State} (hi : i.wellFormed = true) (h : exec i s = .next t) :
    t.ReplyConsistent := by
  obtain ⟨-, ⟨-, rfl⟩ | ⟨d, -, -, rfl⟩ | ⟨d, hd, hvalid, rfl⟩⟩ := exec_cases h
  · exact ⟨fun _ => rfl, by simp⟩
  · exact ⟨fun _ => rfl, by simp⟩
  · refine ⟨by simp, fun _ => ?_⟩
    have hdesc := Config.registers_length_le_nDesc (findDevice_some _ _ _ hd).1
    rw [State.conclude_resp, State.conclude_config, respondOf_frame]
    rcases finishReply_of_wellFormed hi d s.leaveCrc with ⟨hcode, hreply⟩ | ⟨hreply, hlen⟩
    · obtain ⟨hge, hle⟩ := respondOf_length hcode d s.leaveCrc
      rw [hreply, appendCrc_length]
      refine ⟨by omega, ?_, checksumValid_appendCrc _⟩
      simp only [State.leaveCrc_config]
      omega
    · rw [hreply, hlen]
      exact ⟨by decide, Nat.le_max_left _ _, hvalid⟩

/-! ## Poll -/

/-- The invariant but for the reply. -/
def State.AssemblyInv (s : State) : Prop :=
  s.config.wf = true ∧ s.AssemblerConsistent ∧ s.IdleBounded ∧ s.BufferBounded ∧ s.TimeoutConsistent

theorem State.inv_iff (s : State) : s.Inv ↔ s.AssemblyInv ∧ s.ReplyConsistent := by
  simp only [State.Inv, State.AssemblyInv, and_assoc]

/-- A completed frame leaves a consistent assembler, and so does one that is not complete. -/
theorem extract_consistent {s s' : State} {r : Option (List Byte)} (hs : s.AssemblerConsistent)
    (h : s.extract = (r, s')) : s'.AssemblerConsistent := by
  cases r with
  | none => exact (extract_none hs h).1
  | some f =>
    rw [(extract_some hs h).1]
    exact ⟨fun _ => ⟨rfl, rfl⟩, by simp⟩

/-- Extraction with no timeout pending keeps the invariant but for the reply. -/
theorem extract_assemblyInv {s s' : State} {r : Option (List Byte)} (hs : s.AssemblyInv) (ht : s.tmo = false)
    (h : s.extract = (r, s')) : s'.AssemblyInv := by
  obtain ⟨hw, hasm, hidle, ⟨hcap, hovf⟩, -⟩ := hs
  have hasm' := extract_consistent hasm h
  obtain ⟨k, hbuf⟩ := extract_buf s
  rw [h] at hbuf
  simp only at hbuf
  rw [extract_next_frame h] at hasm' ⊢
  refine ⟨hw, hasm', hidle, ⟨?_, hovf⟩, by simp [State.TimeoutConsistent, ht]⟩
  exact Capacity.admits_mono hcap (by simp only [hbuf, List.length_drop]; omega)

theorem exec_assemblyInv {i : Instr} {s t : State} (hs : s.AssemblyInv) (h : exec i s = .next t) :
    t.AssemblyInv := by
  rw [exec_frame h]
  exact hs

/-- What extraction gives in a consistent state is the encoding of the instruction the decoder reads from
it. -/
theorem decode_of_extract {s s' : State} {f : List Byte} (hs : s.AssemblerConsistent)
    (h : s.extract = (some f, s')) : ∃ i, decode f = .ok (i, []) ∧ i.wellFormed = true ∧ encode i = f :=
  (extract_wholeFrame (.inr hs) h).decode

theorem inv_poll {s t : State} (hs : s.Inv) (h : poll s = .next t) : t.Inv := by
  have hassembly := ((State.inv_iff s).1 hs).1
  have hclear : s.clearResp.AssemblyInv := hassembly
  rw [State.inv_iff]
  rcases poll_cases h with ⟨-, rfl⟩ | ⟨ht, s', hextract, rfl⟩ | ⟨ht, f, s', i, hextract, hread, hexec⟩
  · obtain ⟨hw, hasm, hidle, hbuf, -⟩ := hassembly
    exact ⟨⟨hw, hasm, hidle, hbuf, by simp [State.TimeoutConsistent]⟩, fun _ => rfl, by simp⟩
  · have hassembly' : s'.AssemblyInv := extract_assemblyInv hclear ht hextract
    exact ⟨hassembly', fun _ => rfl, by simp⟩
  · have hassembly' := extract_assemblyInv hclear ht hextract
    obtain ⟨hi, -⟩ := encodeOfDecodeIsTheBytes _ _ _ hread
    exact ⟨exec_assemblyInv hassembly' hexec, exec_replyConsistent hi hexec⟩

/-! ## The obligations -/

theorem inv_performOp {op : HostOp} {s t : State} (hs : s.Inv) (h : performOp op s = .next t) : t.Inv := by
  cases op with
  | reset =>
    obtain rfl : s.doReset = t := by simpa [performOp] using h
    exact inv_doReset hs
  | feed b =>
    obtain rfl : s.feed b = t := by simpa [performOp] using h
    exact inv_feed hs b
  | tick =>
    obtain rfl : s.tick = t := by simpa [performOp] using h
    exact inv_tick hs
  | poll => exact inv_poll hs h

/-- Settles O48: a turn and each operation keep the invariant. -/
theorem stepKeepsTheInvariant : Obligations.StepKeepsTheInvariant := by
  intro s t hs h
  obtain ⟨-, ⟨-, rfl⟩ | ⟨op, -, hop⟩⟩ := step_cases h
  · exact inv_takeTurn hs
  · exact inv_performOp (inv_takeTurn hs) hop

/-- From a state with the invariant a `Poll` gives a next state: what it extracts is a frame. -/
theorem poll_next {s : State} (hs : s.Inv) : ∃ t, poll s = .next t := by
  obtain ⟨hw, hasm, -⟩ := hs
  unfold poll
  split
  · exact ⟨_, rfl⟩
  · rcases hextract : s.clearResp.extract with ⟨_ | f, s'⟩
    · exact ⟨_, rfl⟩
    · obtain ⟨i, hread, -, -⟩ := decode_of_extract (s := s.clearResp) hasm hextract
      have hw' : s'.config.wf = true := by rw [extract_config hextract]; exact hw
      simpa [runFrame, hread] using exec_next_of_wf i s' hw'

theorem performOp_next (op : HostOp) {s : State} (hs : s.Inv) : ∃ t, performOp op s = .next t := by
  cases op with
  | poll => exact poll_next hs
  | reset => exact ⟨_, rfl⟩
  | feed b => exact ⟨_, rfl⟩
  | tick => exact ⟨_, rfl⟩

/-- Settles O49. -/
theorem nothingIsFatal : Obligations.NothingIsFatal := by
  intro s hs
  unfold step performNext
  rw [if_pos hs.1]
  split
  · exact ⟨_, rfl⟩
  · exact performOp_next _ (inv_takeTurn hs)

/-- The run of an infinite sequence of operations; where a step gave no next state, it would stay. -/
def runOf (ops : Nat → HostOp) (s : State) : Nat → State
  | 0 => s
  | n + 1 => (nextState? (step ((runOf ops s n).withOps [ops n]))).getD (runOf ops s n)

/-- Settles O51: the steps give next states as long as the invariant holds, and it holds at every one. -/
theorem everySequenceOfOperationsHasItsRun : Obligations.EverySequenceOfOperationsHasItsRun := by
  intro ops s hs
  have hstep : ∀ n, (runOf ops s n).Inv →
      step ((runOf ops s n).withOps [ops n]) = .next (runOf ops s (n + 1)) := by
    intro n hn
    obtain ⟨t, ht⟩ := nothingIsFatal ((runOf ops s n).withOps [ops n]) hn
    rw [runOf, ht]
    rfl
  have hinv : ∀ n, (runOf ops s n).Inv := by
    intro n
    induction n with
    | zero => exact hs
    | succ n ih => exact stepKeepsTheInvariant ((runOf ops s n).withOps [ops n]) _ ih (hstep n ih)
  exact ⟨runOf ops s, rfl, fun n => ⟨hinv n, hstep n (hinv n)⟩⟩

end Sys2Proof.Machine

/-! Rules over every step (10_state.md sections 1, 4 and 8, 42_dispatcher.md, 60_exceptions.md section 3):
what a `Poll` consumes and reports, what a step keeps, the flags, the status registers and the codes. -/

namespace Sys2Proof.Machine

/-! ## What a Poll step can do -/

/-- Everything the step of a listed `Poll` can do from any state (42_dispatcher.md R130). -/
theorem step_poll_cases {s t : State} {rest : List HostOp} (hops : s.ops = .poll :: rest) (h : step s = .next t) :
    (s.tmo = true ∧ t = State.conclude { s with ops := rest, tmo := false } .frameTimeout []) ∨
    (s.tmo = false ∧ ∃ s', (s.atPoll rest).extract = (none, s') ∧ t = s'.conclude .noFullPackage []) ∨
    (s.tmo = false ∧ ∃ f s' i, (s.atPoll rest).extract = (some f, s') ∧ decode f = .ok (i, []) ∧
      exec i s' = .next t) := by
  have hw := (step_cases h).1
  rw [step_of_op hw hops] at h
  exact poll_cases h

/-- Settles O23: the three ways of a `Poll`, with the bytes that extraction accounts for. -/
theorem pollConsumesOneFrameOrNone : Obligations.PollConsumesOneFrameOrNone := by
  intro s t rest hs hops h
  have hs' : (s.atPoll rest).AssemblerConsistent := hs
  rcases step_poll_cases hops h with ⟨-, rfl⟩ | ⟨-, s', hextract, rfl⟩ | ⟨-, f, s', i, hextract, hread, hexec⟩
  · exact ⟨0, fun _ => rfl, .inl ⟨rfl, rfl, rfl⟩⟩
  · obtain ⟨-, zeros, hzeros, hbytes⟩ := extract_none hs' hextract
    refine ⟨zeros, hzeros, .inr (.inl ⟨rfl, ?_⟩)⟩
    rw [List.append_assoc]
    exact hbytes
  · obtain ⟨hframe, zeros, hzeros, hbytes⟩ := extract_some hs' hextract
    obtain ⟨hi, hencode⟩ := encodeOfDecodeIsTheBytes _ _ _ hread
    rw [List.append_nil] at hencode
    subst hencode
    have hbuf : t.buf = s'.buf := by rw [exec_frame hexec]
    refine ⟨zeros, hzeros, .inr (.inr ⟨i, hi, ?_, ?_⟩)⟩
    · rw [hbuf]
      exact hbytes
    · rw [hbuf, ← hexec]
      exact congrArg (exec i) hframe.symm

/-- Settles O16. -/
theorem noExtractedFrameBeginsWithZero : Obligations.NoExtractedFrameBeginsWithZero := by
  constructor
  · intro s s' f hs h
    obtain ⟨hlen, hne, -⟩ := extract_wholeFrame hs h
    exact ⟨hlen, hne⟩
  · intro s t rest hs hops h
    rcases step_poll_cases hops h with ⟨-, rfl⟩ | ⟨-, s', -, rfl⟩ | ⟨-, f, s', i, hextract, hread, hexec⟩
    · simp
    · simp
    · obtain ⟨-, hne, -⟩ := extract_wholeFrame (s := s.atPoll rest) (.inr hs) hextract
      obtain ⟨-, hencode⟩ := encodeOfDecodeIsTheBytes _ _ _ hread
      rw [← hencode, List.append_nil, encode_getD_zero] at hne
      refine ⟨fun hok => (replyNamesAddressAndFunction i s' t hexec hok).1 ▸ hne, fun hresult => ?_⟩
      have hfound : ∃ d, findDevice s'.config.devices i.address = some d := by
        obtain ⟨-, ⟨-, rfl⟩ | ⟨d, hd, -⟩ | ⟨d, hd, -⟩⟩ := exec_cases hexec
        · simp at hresult
        · exact ⟨d, hd⟩
        · exact ⟨d, hd⟩
      obtain ⟨d, hd⟩ := hfound
      obtain ⟨hmem, haddress⟩ := findDevice_some _ _ _ hd
      rw [extract_config hextract] at hmem
      exact ⟨d, hmem, haddress ▸ hne⟩

/-- The outcome of an instruction, by address match and checksum test. -/
theorem exec_result {i : Instr} {s t : State} (h : exec i s = .next t) :
    t.result ≠ .frameTimeout ∧ t.result ≠ .noFullPackage ∧
    (t.result = .noSlaveMatch ↔ ∀ d ∈ s.config.devices, d.address ≠ i.address) ∧
    (t.result = .incorrectCrc ↔
      (∃ d ∈ s.config.devices, d.address = i.address) ∧ checksumValid (encode i) = false) ∧
    (t.result = .packageOk ↔
      (∃ d ∈ s.config.devices, d.address = i.address) ∧ checksumValid (encode i) = true) := by
  have hdevice : ∀ {d}, findDevice s.config.devices i.address = some d →
      ∃ d ∈ s.config.devices, d.address = i.address := fun hd => ⟨_, findDevice_some _ _ _ hd⟩
  obtain ⟨-, ⟨hnone, rfl⟩ | ⟨d, hd, hbad, rfl⟩ | ⟨d, hd, hgood, rfl⟩⟩ := exec_cases h
  · have hother := (findDevice_none_iff _ _).1 hnone
    have hno : ¬ ∃ d ∈ s.config.devices, d.address = i.address := fun ⟨d, hmem, ha⟩ => hother d hmem ha
    exact ⟨by simp, by simp, iff_of_true rfl hother, iff_of_false (by simp) fun h => hno h.1,
      iff_of_false (by simp) fun h => hno h.1⟩
  · simp [hdevice hd, hbad]
  · simp [hdevice hd, hgood]

/-- Settles O43: with a timeout, without a frame, or with the frame of an instruction, whose outcome is
known. -/
theorem pollReportsInOrderOfPriority : Obligations.PollReportsInOrderOfPriority := by
  intro s t rest hops h
  rcases step_poll_cases hops h with ⟨ht, rfl⟩ | ⟨ht, s', hextract, rfl⟩ | ⟨ht, f, s', i, hextract, hread, hexec⟩
  · simp [ht]
  · refine ⟨by simp [ht], iff_of_true rfl ⟨ht, s', hextract⟩, fun g u _ hsome => ?_⟩
    rw [State.atPoll, hsome] at hextract
    simp at hextract
  · obtain ⟨hno4, hno1, hmatch, hcrc, hok⟩ := exec_result hexec
    obtain ⟨-, hencode⟩ := encodeOfDecodeIsTheBytes _ _ _ hread
    rw [List.append_nil] at hencode
    subst hencode
    rw [extract_config hextract] at hmatch hcrc hok
    refine ⟨by simp [ht, hno4], iff_of_false hno1 ?_, fun g u _ hsome => ?_⟩
    · rintro ⟨-, u, hnone⟩
      rw [State.atPoll, hnone] at hextract
      simp at hextract
    · rw [State.atPoll, hsome] at hextract
      obtain ⟨rfl, -⟩ := by simpa using hextract
      rw [encode_getD_zero]
      exact ⟨hmatch, hcrc, hok⟩

/-! ## What every step keeps -/

/-- A `Poll` keeps the configuration, the counter, `ovf` and the environment's fields, and leaves no timeout
pending. -/
theorem poll_frame {s t : State} (h : poll s = .next t) :
    t = { s with
      buf := t.buf, asm := t.asm, hold := t.hold, need := t.need, tmo := false, result := t.result,
      resp := t.resp, crc := t.crc, answers := t.answers, drawn := t.drawn, crcUses := t.crcUses } := by
  rcases poll_cases h with ⟨-, rfl⟩ | ⟨ht, s', hextract, rfl⟩ | ⟨ht, f, s', i, hextract, -, hexec⟩
  · rfl
  · rw [extract_next_frame hextract, ← ht]
    rfl
  · rw [exec_frame hexec, extract_next_frame hextract, ← ht]
    rfl

theorem poll_buf {s t : State} (h : poll s = .next t) : ∃ k, t.buf = s.buf.drop k := by
  rcases poll_cases h with ⟨-, rfl⟩ | ⟨-, s', hextract, rfl⟩ | ⟨-, f, s', i, hextract, -, hexec⟩
  · exact ⟨0, rfl⟩
  · obtain ⟨k, hk⟩ := extract_buf s.clearResp
    rw [hextract] at hk
    exact ⟨k, hk⟩
  · obtain ⟨k, hk⟩ := extract_buf s.clearResp
    rw [hextract] at hk
    rw [exec_frame hexec]
    exact ⟨k, hk⟩

theorem performOp_keeps {op : HostOp} {s t : State} (h : performOp op s = .next t) :
    t.config = s.config ∧ t.ops = s.ops := by
  cases op with
  | poll => rw [poll_frame h]; exact ⟨rfl, rfl⟩
  | reset => cases h; exact ⟨rfl, rfl⟩
  | feed b => cases h; exact ⟨State.feed_config b s, State.feed_ops b s⟩
  | tick => cases h; exact ⟨State.tick_config s, State.tick_ops s⟩

/-- Settles O40. -/
theorem stepsKeepTheConfiguration : Obligations.StepsKeepTheConfiguration := by
  intro s t h
  rw [← State.takeTurn_config s, ← State.takeTurn_ops s]
  obtain ⟨-, ⟨-, rfl⟩ | ⟨op, -, hop⟩⟩ := step_cases h
  · exact ⟨rfl, rfl⟩
  · exact performOp_keeps hop

/-- Settles O41: `Reset` and an abandoning `Tick` drop all bytes, a `Poll` some, and the rest is `Feed`'s. -/
theorem bytesLeaveInFifoOrder : Obligations.BytesLeaveInFifoOrder := by
  intro s t h
  have hsame : ∃ k, s.buf = s.buf.drop k := ⟨0, rfl⟩
  have hall : ∃ k, [] = s.buf.drop k := ⟨s.buf.length, List.drop_length.symm⟩
  obtain ⟨-, ⟨-, rfl⟩ | ⟨op, hnext, hop⟩⟩ := step_cases h
  · exact .inl (by rwa [State.takeTurn_buf])
  · cases op with
    | poll => exact .inl (State.takeTurn_buf s ▸ poll_buf hop)
    | reset => cases hop; exact .inl hall
    | feed b =>
      cases hop
      rcases feed_cases b s.takeTurn with ⟨-, hfeed⟩ | ⟨-, hfeed⟩
      · exact .inr ⟨b, hnext, by rw [hfeed, State.takeTurn_buf]⟩
      · exact .inl (by rw [hfeed, State.takeTurn_buf]; exact hsame)
    | tick =>
      cases hop
      rcases tick_cases s.takeTurn with ⟨-, htick⟩ | ⟨-, htick⟩
      · exact .inl (by rw [htick]; exact hall)
      · exact .inl (by rw [htick, State.countTick_buf, State.takeTurn_buf]; exact hsame)

/-! ## The flags -/

/-- A full buffer has a finite capacity that is reached. -/
theorem full_of_hasRoom {s : State} (h : s.hasRoom = false) :
    ∃ n, s.config.bufCap = .bytes n ∧ n ≤ s.buf.length := by
  cases hcap : s.config.bufCap with
  | unbounded => rw [hasRoom_unbounded hcap] at h; simp at h
  | bytes n =>
    rw [hasRoom_bytes hcap] at h
    exact ⟨n, rfl, by simpa using h⟩

/-- A pending timeout is cleared by a `Poll` only as it is reported. -/
theorem poll_timeout {s t : State} (ht : s.tmo = true) (h : poll s = .next t) : t.result = .frameTimeout := by
  rcases poll_cases h with ⟨-, rfl⟩ | ⟨hf, -⟩ | ⟨hf, -⟩
  · rfl
  · simp [ht] at hf
  · simp [ht] at hf

/-- Settles O42, operation by operation: each keeps a flag or changes it as the statement says. -/
theorem flagsChangeOnlyAsStated : Obligations.FlagsChangeOnlyAsStated := by
  intro s t h
  obtain ⟨-, ⟨-, rfl⟩ | ⟨op, hnext, hop⟩⟩ := step_cases h
  · simp_all
  · cases op with
    | poll =>
      have hovf : t.ovf = s.ovf := by rw [poll_frame hop, State.takeTurn_ovf]
      have htmo : t.tmo = false := by rw [poll_frame hop]
      have hreport : s.tmo = true → t.result = .frameTimeout := fun ht =>
        poll_timeout (by rwa [State.takeTurn_tmo]) hop
      simp_all
    | reset =>
      cases hop
      simp [hnext]
    | feed b =>
      cases hop
      rcases feed_cases b s.takeTurn with ⟨-, hfeed⟩ | ⟨hroom, hfeed⟩
      · simp_all
      · have hfull := full_of_hasRoom hroom
        rw [State.takeTurn_config, State.takeTurn_buf] at hfull
        simp_all
    | tick =>
      cases hop
      rcases tick_cases s.takeTurn with ⟨hsilent, htick⟩ | ⟨-, htick⟩
      · have hwait := ((silent_iff _).1 hsilent).1
        simp_all
      · simp_all

/-! ## Status registers and codes -/

/-- The bits of `STATUS` (10_state.md R38). -/
theorem statusRegister_bits (s : State) :
    s.statusRegister.getLsbD 0 = s.ovf ∧ s.statusRegister.getLsbD 1 = s.tmo ∧
    s.statusRegister.getLsbD 2 = decide (s.asm = .awaitingExtendedPayload) ∧
    s.statusRegister.getLsbD 3 = false := by
  unfold State.statusRegister
  cases s.ovf <;> cases s.tmo <;> cases s.asm <;> decide

/-- Settles O44. -/
theorem statusRegistersShowTheState : Obligations.StatusRegistersShowTheState := by
  intro s
  obtain ⟨hovf, htmo, hasm, hzero⟩ := statusRegister_bits s
  refine ⟨?_, hovf, htmo, hasm, hzero, rfl, rfl, rfl, rfl, ?_⟩
  · change some s.result.number.toNat = _
    cases s.result <;> rfl
  · rintro ⟨-, -, -, -, -, hempty, -⟩
    unfold State.transmitted
    split
    case isTrue => rfl
    case isFalse hne => exact (hempty hne).symm

/-- Settles O45. -/
theorem enumerationCodesAreOneToOne : Obligations.EnumerationCodesAreOneToOne := by
  refine ⟨fun k => ?_, by decide, fun m => ?_, rfl⟩
  · cases k <;> exact ⟨rfl, rfl⟩
  · cases m <;> rfl

end Sys2Proof.Machine
